-- ==== Sys2Proof/Word.lean ====
section
/-! DEFINITION. The bit-vector types of HSSEQ's registers, ports and command word (00_scope.md R7,
10_state.md R20 to R35), at the default widths of R7. -/

namespace Sys2Proof

/-- A command word CMD[31:0] (30_encoding.md R71). -/
abbrev Word := BitVec 32

/-- The OP field, CMD[31:24] (30_encoding.md R71). -/
abbrev OpField := BitVec 8

/-- The COUNT field and the REM register: COUNT_W = 16 bits, two's complement (R7, R27, R71). -/
abbrev CountWord := BitVec 16

/-- The TICKS field and the TPS and WCNT registers: TICKS_W = 8 bits, unsigned (R7, R28, R29, R71). -/
abbrev TicksWord := BitVec 8

/-- The CURSOR register: CURSOR_W = 3 bits (R7, R22). -/
abbrev CursorWord := BitVec 3

/-- A phase pattern and the PHASE register: one bit for each of the wires A, B, C, D (R7, R23, R91). -/
abbrev Pattern := BitVec 4

/-- The STATUS port (R33). -/
abbrev StatusWord := BitVec 8

end Sys2Proof
end

