-- ==== Sys2Proof/Syntax.lean ====
section
/-! DEFINITION. The four commands of HSSEQ with their operands (30_encoding.md R72, R73), one
constructor for each row of spec/opcode_table.json. -/

namespace Sys2Proof

/-- A command. The operands are the integers the fields stand for (R73): COUNT is a signed integer,
TICKS an unsigned one. WellFormed.lean checks their ranges. -/
inductive Instr where
  /-- `ADVANCE d` (R74, R95): `direction` is the COUNT operand, only its sign matters. -/
  | advance (direction : Int)
  /-- `WAIT n` (R75, R106): `ticks` is the number of tick events to consume. -/
  | wait (ticks : Nat)
  /-- `RUN c, t` (R76, R120): a signed number of half-steps and the ticks after each step. -/
  | run (count : Int) (ticksPerStep : Nat)
  /-- `HOME c, t` (R76, R140): as RUN; the sensor operand is the input HS, not a field. -/
  | home (count : Int) (ticksPerStep : Nat)
  deriving DecidableEq, Repr

end Sys2Proof
end

