-- ==== Sys2Proof/Machine/State.lean ====
section
/-! DEFINITION. The state of HSSEQ as plain data (10_state.md R20 to R38), the observable events
(00_scope.md R11), the turns of the agents (R6, R9), and the state after RESET. -/

namespace Sys2Proof.Machine

/-- CTRL, the Sequencer's control state (R25). -/
inductive Ctrl where
  /-- No command in progress; the command port is ready. -/
  | idle
  /-- A RUN or HOME is in progress and the next action is its loop test. -/
  | check
  /-- A wait for tick events is in progress. -/
  | wait
  deriving DecidableEq, Repr

/-- KIND, the command that owns the current CTRL ≠ IDLE episode (R26). -/
inductive Kind where
  | kWait
  | kRun
  | kHome
  deriving DecidableEq, Repr

/-- A motor wire (R91). -/
inductive Wire where
  | a
  | b
  | c
  | d
  deriving DecidableEq, Repr

/-- The events of the observable trace (R11). -/
inductive Event where
  | cmdAccepted (w : Word)
  | cmdRejected (w : Word)
  | phaseWrite (p : Pattern)
  | tickConsumed
  | cmdDone
  | reset
  deriving DecidableEq, Repr

/-- One turn of one agent: the atomic actions that interleave in any order (R6, R9, R61). The
MotorDriver has no step that changes state (R6), so it has no turn. -/
inductive Turn where
  /-- The Sequencer takes its enabled transition, or holds if none is enabled. -/
  | sequencer
  /-- The TickSource sets TF (R31). -/
  | tick
  /-- The HomeSensor drives HS to a level (R32). -/
  | sensor (level : Bool)
  /-- The Host offers a word (R70). -/
  | offer (w : Word)
  /-- RESET is applied (R180). -/
  | reset
  deriving DecidableEq, Repr

/-- The whole state. The first eight fields are the block's registers (R20), `tf` and `hs` the state
shared with the environment (R31, R32), `offered` the command port and the Host's words behind it
(R70, R170; log entry 5), `trace` the observation (R11). `schedule` is the model's own: which
agents take the next turns (R9; log entry 3). -/
structure State where
  /-- CURSOR (R22): the index of the next StepTable entry to be written. -/
  cursor : CursorWord
  /-- PHASE (R23): drives the phase lines. -/
  phase : Pattern
  /-- CTRL (R25). -/
  ctrl : Ctrl
  /-- KIND (R26). -/
  kind : Kind
  /-- REM (R27): the signed remaining step count. -/
  rem : CountWord
  /-- TPS (R28): ticksPerStep of the RUN or HOME in progress. -/
  tps : TicksWord
  /-- WCNT (R29): tick events still to be consumed in the current wait. -/
  wcnt : TicksWord
  /-- ERR (R30): sticky until RESET. -/
  err : Bool
  /-- TF (R31): the tick-occurred flag. -/
  tf : Bool
  /-- HS (R32): the home-sensor input, 1 = released. -/
  hs : Bool
  /-- The words the Host offers and the Sequencer has not accepted, in order; the head is the word
  on the command port, and CMD_VALID = 1 while there is one (R70). -/
  offered : List Word
  /-- The turns to come; when it is empty the Sequencer takes every turn (log entry 3). -/
  schedule : List Turn
  /-- The events emitted so far, oldest first (R11). -/
  trace : List Event
  deriving DecidableEq, Repr

/-- A step never stops with a fault: the only exception, IllegalCommand, lets the machine go on
(60_exceptions.md R150, R151), and a hang is not a fault (R154). So there is no fault to raise, and
none is unsafe (log entry 11). -/
inductive Fault where
  deriving DecidableEq, Repr

/-- Why an instruction has no meaning in the model. -/
inductive Refusal where
  /-- Raised by no one while every instruction of the table has its meaning; only an arm of `exec`
  without a meaning would raise it. Safe: the run stops. -/
  | notModelled (mnemonic : String)
  deriving DecidableEq, Repr

/-- The state at power-up, for each value of the two inputs RESET does not set: TF is a draw (R31,
R38) and HS may be either (R32, R38). RESET emits `Reset` (R180; log entry 6); no word is offered
and no turn is scheduled yet (log entries 5, 3). -/
def State.powerUp (tf hs : Bool) : State :=
  { cursor := 0#3, phase := 0#4, ctrl := .idle, kind := .kWait, rem := 0#16, tps := 0#8, wcnt := 0#8,
    err := false, tf := tf, hs := hs, offered := [], schedule := [], trace := [.reset] }

/-- The state right after reset (R38, R180). TF = 0 and HS = 0 are the model's choice (log entries 1
and 2); no statement rests on them. -/
def State.reset : State := State.powerUp false false

end Sys2Proof.Machine
end

