-- ==== Sys2Proof/Machine/Flags.lean ====
section
/-! DEFINITION. The flags and ports a host sees, all computed from the registers: BUSY, STATUS,
CMD_READY and CMD_VALID (10_state.md R33 to R35, 30_encoding.md R70). HSSEQ has no arithmetic flags
(R34). Reading them changes nothing. -/

namespace Sys2Proof.Machine

/-- BUSY: 1 iff CTRL ≠ IDLE (R33). -/
def busy (s : State) : Bool := decide (s.ctrl ≠ .idle)

/-- CMD_READY: 1 iff CTRL = IDLE (R35). -/
def cmdReady (s : State) : Bool := decide (s.ctrl = .idle)

/-- CMD_VALID: 1 while the Host offers a word (R70). -/
def cmdValid (s : State) : Bool := !s.offered.isEmpty

/-- CMD[31:0]: the word on the command port, if one is offered (R70). -/
def cmdWord (s : State) : Option Word := s.offered.head?

/-- STATUS[7:0]: [2:0] CURSOR, [3] BUSY, [4] ERR, [7:5] zero (R33). -/
def statusPort (s : State) : StatusWord :=
  0#3 ++ BitVec.ofBool s.err ++ BitVec.ofBool (busy s) ++ s.cursor

end Sys2Proof.Machine
end

