-- ==== Sys2Proof/Config.lean ====
section
/-! DEFINITION. The implementation parameters of HSSEQ v1, at their default values (00_scope.md R7).
The widths themselves stand in Word.lean. HSSEQ needs no free value: no instruction has an
undefined or unstated result (93_implementation_defined.md). -/

namespace Sys2Proof.Config

/-- The least COUNT operand, −32768 (R7, R73; COUNT_W = 16, decision D4). -/
def countMin : Int := -32768

/-- The greatest COUNT operand, 32767 (R7, R73). -/
def countMax : Int := 32767

/-- The greatest TICKS operand, 255 (R7, R73; TICKS_W = 8, decision D5). -/
def ticksMax : Nat := 255

/-- HS_RELEASED: the level of HS that means released, logic 1 (R7, 90_conflicts.md C7). -/
def hsReleased : Bool := true

/-- TICK_PERIOD in microseconds, nominally 1024 (R7, 70_reset_and_hazards.md R195). INFORMATIVE: no
transition of the model reads it. -/
def tickPeriodMicros : Nat := 1024

/-- The nominal time of a number of ticks, the one use R195 allows of the tick period. -/
def nominalMicros (ticks : Nat) : Nat := ticks * tickPeriodMicros

end Sys2Proof.Config
end

