-- ==== Sys2Proof/WellFormed.lean ====
section
/-! DEFINITION. The operand ranges of a command (30_encoding.md R73, R81): a word can encode exactly
the well-formed commands. -/

namespace Sys2Proof

/-- A COUNT operand fits its field: −32768 to 32767 (R73, R81). -/
def countInRange (c : Int) : Bool := decide (Config.countMin ≤ c) && decide (c ≤ Config.countMax)

/-- A TICKS operand fits its field: 0 to 255 (R73, R81). -/
def ticksInRange (t : Nat) : Bool := decide (t ≤ Config.ticksMax)

/-- Every operand of the command is in its range (R81's operand ranges). -/
def wellFormed : Instr → Bool
  | .advance d => countInRange d
  | .wait n => ticksInRange n
  | .run c t => countInRange c && ticksInRange t
  | .home c t => countInRange c && ticksInRange t

end Sys2Proof
end

