-- ==== Sys2Proof/Decode.lean ====
section
/-! DEFINITION. Decoding and encoding command words (30_encoding.md R71 to R80). `decode` is total on
all 2^32 words and rejects by name; `encode` is written from the same format. -/

namespace Sys2Proof

/-- OP, CMD[31:24] (R71). -/
def opField (w : Word) : OpField := w.extractLsb' 24 8

/-- COUNT, CMD[23:8] (R71). -/
def countField (w : Word) : CountWord := w.extractLsb' 8 16

/-- TICKS, CMD[7:0] (R71). -/
def ticksField (w : Word) : TicksWord := w.extractLsb' 0 8

/-- The COUNT operand: signed(CMD[23:8]) (R73). -/
def countOperand (w : Word) : Int := (countField w).toInt

/-- The TICKS operand: zext_8(CMD[7:0]) (R73). -/
def ticksOperand (w : Word) : Nat := (ticksField w).toNat

/-- The opcodes of R72. -/
def opAdvance : OpField := 0x01#8
def opWait : OpField := 0x02#8
def opRun : OpField := 0x03#8
def opHome : OpField := 0x04#8

/-- Why a word is illegal: the three items of R77. -/
inductive DecodeReject where
  /-- Item 1: OP selects no command. -/
  | unassignedOpcode (op : OpField)
  /-- Item 2: ADVANCE with TICKS ≠ 0. -/
  | advanceTicksNotZero (ticks : TicksWord)
  /-- Item 3: WAIT with COUNT ≠ 0. -/
  | waitCountNotZero (count : CountWord)
  deriving DecidableEq, Repr

/-- The decode of R80: exactly one arm applies to each of the 2^32 words. -/
def decode (w : Word) : Except DecodeReject Instr :=
  if opField w = opAdvance then
    if ticksField w = 0#8 then .ok (.advance (countOperand w))
    else .error (.advanceTicksNotZero (ticksField w))
  else if opField w = opWait then
    if countField w = 0#16 then .ok (.wait (ticksOperand w))
    else .error (.waitCountNotZero (countField w))
  else if opField w = opRun then .ok (.run (countOperand w) (ticksOperand w))
  else if opField w = opHome then .ok (.home (countOperand w) (ticksOperand w))
  else .error (.unassignedOpcode (opField w))

/-- The word `{op, cnt[15:0], tk[7:0]}` of format F (R71). -/
def assembleFields (op : OpField) (cnt : CountWord) (tk : TicksWord) : Word := op ++ cnt ++ tk

/-- The COUNT field of an operand: its low 16 bits in two's complement (R73). -/
def countBits (c : Int) : CountWord := BitVec.ofInt 16 c

/-- The TICKS field of an operand (R73). -/
def ticksBits (t : Nat) : TicksWord := BitVec.ofNat 8 t

/-- The word of a command (R81); it means the command only if the command is well-formed. -/
def encode : Instr → Word
  | .advance d => assembleFields opAdvance (countBits d) 0#8
  | .wait n => assembleFields opWait 0#16 (ticksBits n)
  | .run c t => assembleFields opRun (countBits c) (ticksBits t)
  | .home c t => assembleFields opHome (countBits c) (ticksBits t)

/-- The command word numbered as spec/opcode_table.json numbers it: HSSEQ takes it as one parallel
32-bit unit (20_memory.md R55), and bits above `nbits` are 0. -/
def tableWord (nbits w : Nat) : Word := BitVec.ofNat 32 (w % 2 ^ nbits)

/-- The instruction the decoder reads from a table row's word, none for an illegal word. -/
def decodeTableWord (nbits w : Nat) : Option Instr :=
  match decode (tableWord nbits w) with
  | .ok i => some i
  | .error _ => none

end Sys2Proof
end

