-- ==== Sys2Proof/Machine/Operands.lean ====
section
/-! DEFINITION. The operand forms: how a command's integers reach the registers, and the sign and
cursor arithmetic of 00_scope.md R8. -/

namespace Sys2Proof.Machine

/-- `sign(x)`: +1, −1 or 0 (R8). -/
def sign (x : Int) : Int := if 0 < x then 1 else if x < 0 then -1 else 0

/-- `signed(v)`: a COUNT_W-bit field read in two's complement (00_scope.md notation, R73). -/
def signed (v : CountWord) : Int := v.toInt

/-- The REM register's content for a count operand: 16-bit two's complement (R73, R120). -/
def countRegister (c : Int) : CountWord := countBits c

/-- The TPS or WCNT register's content for a ticks operand (R73, R106, R120). -/
def ticksRegister (t : Nat) : TicksWord := ticksBits t

/-- `c +3 d`: 3-bit addition that drops the carry, so that 0 − 1 = 7 and 7 + 1 = 0 (R8). -/
def cursorPlus (c : CursorWord) (d : Int) : CursorWord := c + BitVec.ofInt 3 d

/-- `REM − d` (R122, R125). -/
def remMinus (rem : CountWord) (d : Int) : CountWord := rem - BitVec.ofInt 16 d

end Sys2Proof.Machine
end

