-- ==== Sys2Proof/Machine/Ops.lean ====
section
/-! DEFINITION. The shared operations: the access primitives of 20_memory.md R51 to R54, `emit`
(00_scope.md R11), the advance primitive (40_steptable_advance.md R96), the one exception
IllegalCommand (60_exceptions.md R151) and RESET (70_reset_and_hazards.md R180). HSSEQ has no return
from an exception (R158): after IllegalCommand it is in CTRL = IDLE, ready for the next word. -/

namespace Sys2Proof.Machine

/-- `emit E`: append the event to the observable trace (R11). -/
def State.emit (e : Event) (s : State) : State := { s with trace := s.trace ++ [e] }

/-- The bit of a wire in a pattern: A 0, B 1, C 2, D 3 (R91). -/
def Wire.bit : Wire → Nat
  | .a => 0
  | .b => 1
  | .c => 2
  | .d => 3

/-- A phase set: the pattern whose bits are 1 exactly for the named wires (00_scope.md notation). -/
def phaseSet (wires : List Wire) : Pattern :=
  wires.foldl (fun p w => p ||| (1#4 <<< w.bit)) 0#4

/-- StepTable, the read-only half-step table in clockwise order (R90). -/
def stepTable : Vector Pattern 8 :=
  #v[phaseSet [.a], phaseSet [.a, .b], phaseSet [.b], phaseSet [.b, .c],
     phaseSet [.c], phaseSet [.c, .d], phaseSet [.d], phaseSet [.d, .a]]

/-- `RomRead(c)`: StepTable[c]; pure, cannot fail (R51). -/
def romRead (c : CursorWord) : Pattern := stepTable.get c.toFin

/-- `PortWrite(p)`: PHASE <- p and the event, in one action (R52). -/
def portWrite (p : Pattern) (s : State) : State := { s with phase := p }.emit (.phaseWrite p)

/-- `TickTake()`: if TF = 1, clear it, emit `TickConsumed` and return true; else return false (R53). -/
def tickTake (s : State) : Bool × State :=
  if s.tf then (true, { s with tf := false }.emit .tickConsumed) else (false, s)

/-- `SensorRead()`: true iff the level of HS means released (R54, R32). -/
def sensorRead (s : State) : Bool := s.hs == Config.hsReleased

/-- `ADV(d)`, d = +1 or −1: write the pattern at the current cursor, then move the cursor (R96). -/
def adv (d : Int) (s : State) : State :=
  let written := portWrite (romRead s.cursor) s
  { written with cursor := cursorPlus written.cursor d }

/-- `raise IllegalCommand(w)`: ERR <- 1 and the event; nothing else changes (R151). It saves no state
and goes to no vector (R157). -/
def raiseIllegalCommand (w : Word) (s : State) : State :=
  { s with err := true }.emit (.cmdRejected w)

/-- RESET: every register to its reset value in one action; TF, HS and the offered words stay (R180). -/
def resetAction (s : State) : State :=
  { s with cursor := 0#3, phase := 0#4, ctrl := .idle, kind := .kWait, rem := 0#16, tps := 0#8, wcnt := 0#8,
           err := false }.emit .reset

/-- A command completes: CTRL <- IDLE and `CmdDone` (R11, R108, R121). -/
def completeCommand (s : State) : State := { s with ctrl := .idle }.emit .cmdDone

end Sys2Proof.Machine
end

