-- ==== Sys2Proof/Machine/Advance.lean ====
section
/-! DEFINITION. ADVANCE (40_steptable_advance.md R95). -/

namespace Sys2Proof.Machine

/-- ADVANCE_EXEC(x): one half-step in the direction of sign(x), or nothing; CTRL stays IDLE, because
ADVANCE completes within the accepting transition (R95). -/
def execAdvance (x : Int) (s : State) : Host.Outcome State Fault Refusal :=
  let d := sign x
  .next ((if d ≠ 0 then adv d s else s).emit .cmdDone)

end Sys2Proof.Machine
end

