-- ==== Sys2Proof/Machine/Home.lean ====
section
/-! DEFINITION. HOME (43_home.md R140). Its loop is RUN's, with the sensor test that CHECK makes for
KIND = K_HOME (Machine/Run.lean, R121, R141). -/

namespace Sys2Proof.Machine

/-- HOME_START(c, t): load the operands and go to CHECK (R140). -/
def execHome (c : Int) (t : Nat) (s : State) : Host.Outcome State Fault Refusal :=
  .next { s with rem := countRegister c, tps := ticksRegister t, kind := .kHome, ctrl := .check }

end Sys2Proof.Machine
end

