-- ==== Sys2Proof/Machine/Run.lean ====
section
/-! DEFINITION. RUN and the step loop it shares with HOME: CHECK and STEP (42_run.md R120 to R122). -/

namespace Sys2Proof.Machine

/-- RUN_START(c, t): load the operands and go to CHECK (R120). -/
def execRun (c : Int) (t : Nat) (s : State) : Host.Outcome State Fault Refusal :=
  .next { s with rem := countRegister c, tps := ticksRegister t, kind := .kRun, ctrl := .check }

/-- STEP: one half-step toward REM = 0, then the next CHECK or the wait (R122). -/
def stepAction (s : State) : State :=
  let d := sign (signed s.rem)
  let moved := adv d s
  let counted := { moved with rem := remMinus moved.rem d }
  if counted.tps = 0#8 then { counted with ctrl := .check }
  else { counted with wcnt := counted.tps, ctrl := .wait }

/-- CHECK, always enabled in CTRL = CHECK: REM = 0 is tested before the sensor, and only a HOME reads
the sensor (R121, R141). -/
def checkTurn (s : State) : State :=
  if s.rem = 0#16 then completeCommand s
  else if s.kind = .kHome && sensorRead s then completeCommand s
  else stepAction s

end Sys2Proof.Machine
end

