-- ==== Sys2Proof/Machine/Wait.lean ====
section
/-! DEFINITION. WAIT and the tick-paced wait that RUN and HOME share (41_waitticks.md R106 to R109). -/

namespace Sys2Proof.Machine

/-- WAIT_START(n): with n = 0 the command completes at once and CTRL stays IDLE; else the wait starts.
TF is not cleared (R106, R111). -/
def execWait (n : Nat) (s : State) : Host.Outcome State Fault Refusal :=
  if n = 0 then .next (s.emit .cmdDone)
  else .next { s with wcnt := ticksRegister n, kind := .kWait, ctrl := .wait }

/-- END_WAIT: back to whatever started the wait (R108). -/
def endWait (s : State) : State :=
  match s.kind with
  | .kWait => completeCommand s
  | .kRun => { s with ctrl := .check }
  | .kHome => { s with ctrl := .check }

/-- The count of TICK after its TickTake: WCNT <- WCNT − 1, and END_WAIT at 0 (R107). -/
def countTick (s : State) : State :=
  let counted := { s with wcnt := s.wcnt - 1#8 }
  if counted.wcnt = 0#8 then endWait counted else counted

/-- The Sequencer's turn in CTRL = WAIT: TICK where TF = 1 (R107); where TF = 0 no transition is
enabled and the state stays as it is, a hold (R109; log entry 4). -/
def waitTurn (s : State) : State :=
  match tickTake s with
  | (true, taken) => countTick taken
  | (false, held) => held

end Sys2Proof.Machine
end

