-- ==== Sys2Proof/Machine/Dispatch.lean ====
section
/-! DEFINITION. The meaning of each command, run inside the ACCEPT transition (30_encoding.md R80). -/

namespace Sys2Proof.Machine

def exec (i : Instr) (s : State) : Host.Outcome State Fault Refusal :=
  match i with
  | .advance x => Sys2Proof.Machine.execAdvance x s
  | .wait n => Sys2Proof.Machine.execWait n s
  | .run c t => Sys2Proof.Machine.execRun c t s
  | .home c t => Sys2Proof.Machine.execHome c t s

end Sys2Proof.Machine
end

