-- ==== Sys2Proof/Machine/Sequencer.lean ====
section
/-! DEFINITION. The Sequencer's turn: ACCEPT, CHECK or TICK by CTRL, or a hold (00_scope.md R9,
30_encoding.md R80, 41_waitticks.md R107, R109, 42_run.md R121). -/

namespace Sys2Proof.Machine

/-- The Host's next word is on the port, or none: the accepted word is consumed (R70, R151). -/
def consumeWord (s : State) : State := { s with offered := s.offered.tail }

/-- ACCEPT(w), enabled iff CTRL = IDLE and CMD_VALID = 1: consume the word, decode it and start the
command in the same transition, or raise IllegalCommand (R80). -/
def acceptWord (w : Word) (s : State) : Host.Outcome State Fault Refusal :=
  match decode w with
  | .ok i => exec i ((consumeWord s).emit (.cmdAccepted w))
  | .error _ => .next (raiseIllegalCommand w (consumeWord s))

/-- The Sequencer's turn. In IDLE with no word offered, and in WAIT with TF = 0, no transition is
enabled and the state stays as it is: a hold (R9, R109; log entry 4). -/
def sequencerTurn (s : State) : Host.Outcome State Fault Refusal :=
  match s.ctrl with
  | .idle =>
    match cmdWord s with
    | some w => acceptWord w s
    | none => .next s
  | .check => .next (checkTurn s)
  | .wait => .next (waitTurn s)

/-- Some Sequencer transition is enabled: ACCEPT, CHECK or TICK (R80, R107, R121). -/
def sequencerEnabled (s : State) : Bool :=
  match s.ctrl with
  | .idle => cmdValid s
  | .check => true
  | .wait => s.tf

end Sys2Proof.Machine
end

