-- ==== Sys2Proof/Machine/Turns.lean ====
section
/-! DEFINITION. The turns of all agents and the order they come in (00_scope.md R6, R9, 20_memory.md
R61; log entry 3). -/

namespace Sys2Proof.Machine

/-- The TickSource's turn: TF <- 1; a TF that is 1 stays 1 (R31, R63). -/
def setTickFlag (s : State) : State := { s with tf := true }

/-- The HomeSensor's turn: HS to any level (R32). -/
def driveSensor (level : Bool) (s : State) : State := { s with hs := level }

/-- The Host's turn: it offers a word, after the words it holds already (R70, R170; log entry 5). -/
def offerWord (w : Word) (s : State) : State := { s with offered := s.offered ++ [w] }

/-- One turn: one atomic action of one agent (R9). RESET is enabled in every state (R156, R180). -/
def takeTurn (t : Turn) (s : State) : Host.Outcome State Fault Refusal :=
  match t with
  | .sequencer => sequencerTurn s
  | .tick => .next (setTickFlag s)
  | .sensor level => .next (driveSensor level s)
  | .offer w => .next (offerWord w s)
  | .reset => .next (resetAction s)

/-- The agent whose turn is next: the head of the schedule, the Sequencer where it is empty. -/
def nextTurn (s : State) : Turn :=
  match s.schedule with
  | [] => .sequencer
  | t :: _ => t

/-- The turn is taken off the schedule. -/
def dropTurn (s : State) : State := { s with schedule := s.schedule.tail }

end Sys2Proof.Machine
end

