-- ==== Sys2Proof/Machine/Step.lean ====
section
/-! DEFINITION. One step of the whole machine: the next turn of the schedule (Machine/Turns.lean), and
the placing of a word where the next step takes it. -/

namespace Sys2Proof.Machine

/-- One step: the agent whose turn it is acts once (R9). -/
def step (s : State) : Host.Outcome State Fault Refusal :=
  takeTurn (nextTurn s) (dropTurn s)

/-- The Host offers the table row's word, the port is ready and the Sequencer has the next turn, so
that the very next step accepts exactly that word (R70, R80; log entry 7). -/
def State.withFetchWord (s : State) (nbits w : Nat) : State :=
  { s with ctrl := .idle, offered := tableWord nbits w :: s.offered,
           schedule := .sequencer :: s.schedule }

end Sys2Proof.Machine
end

