-- ==== Sys2Proof/Machine/Assembler.lean ====
section
/-! DEFINITION. The assembler text of 30_encoding.md R81 and the pseudo-instructions of R82. It is a tool
beside the machine (decision D26): no step reads it. Details of the text R81 leaves open are log
entry 13. -/

namespace Sys2Proof.Machine

/-- A line's command: one of the four, or a pseudo-instruction of R82 with its operands. -/
inductive AsmCommand where
  | core (i : Instr)
  | stepf
  | stepb
  | fwd (n : Int) (t : Nat)
  | rev (n : Int) (t : Nat)
  | nop
  deriving DecidableEq, Repr

/-- Why a line is rejected. -/
inductive AsmReject where
  /-- The mnemonic is none of R81 and R82. -/
  | unknownMnemonic
  /-- An operand is no integer of R81. -/
  | malformedOperand
  /-- The mnemonic takes another number of operands. -/
  | operandCount
  /-- An operand is out of range: an assembler rejects it and does not truncate it (R81). -/
  | outOfRange
  deriving DecidableEq, Repr

/-- Each pseudo-instruction expands to exactly one command (R82). -/
def expandAsm : AsmCommand → Instr
  | .core i => i
  | .stepf => .advance 1
  | .stepb => .advance (-1)
  | .fwd n t => .run n t
  | .rev n t => .run (-n) t
  | .nop => .advance 0

/-- The operand ranges of R81 and R82: FWD takes n in 0..32767, REV n in 0..32768. -/
def asmInRange : AsmCommand → Bool
  | .core i => wellFormed i
  | .stepf => true
  | .stepb => true
  | .fwd n t => decide (0 ≤ n) && decide (n ≤ 32767) && ticksInRange t
  | .rev n t => decide (0 ≤ n) && decide (n ≤ 32768) && ticksInRange t
  | .nop => true

/-- The word of a command, or a rejection of an operand out of range (R81). -/
def assembleCommand (a : AsmCommand) : Except AsmReject Word :=
  if asmInRange a then .ok (encode (expandAsm a)) else .error .outOfRange

/-- A blank between the parts of a line. -/
def isBlank (c : Char) : Bool := c == ' ' || c == '\t'

/-- Blanks at both ends are dropped. -/
def trimBlanks (cs : List Char) : List Char :=
  ((cs.dropWhile isBlank).reverse.dropWhile isBlank).reverse

/-- `;` starts a comment (R81). -/
def stripComment (cs : List Char) : List Char := cs.takeWhile (· != ';')

/-- The parts of a text between commas. -/
def splitCommas : List Char → List (List Char)
  | [] => [[]]
  | c :: cs =>
    if c == ',' then [] :: splitCommas cs
    else match splitCommas cs with
      | [] => [[c]]
      | part :: parts => (c :: part) :: parts

/-- The value of a digit in a base up to 16. -/
def digitValue (base : Nat) (c : Char) : Option Nat :=
  let v := if '0' ≤ c ∧ c ≤ '9' then c.toNat - '0'.toNat
    else if 'a' ≤ c ∧ c ≤ 'f' then c.toNat - 'a'.toNat + 10
    else if 'A' ≤ c ∧ c ≤ 'F' then c.toNat - 'A'.toNat + 10
    else base
  if v < base then some v else none

/-- A number in a base, most significant digit first, after the digits read so far. -/
def readDigits (base : Nat) : Nat → List Char → Option Nat
  | soFar, [] => some soFar
  | soFar, c :: cs =>
    match digitValue base c with
    | some v => readDigits base (soFar * base + v) cs
    | none => none

/-- An unsigned number of one digit or more. -/
def readNumber (base : Nat) (cs : List Char) : Option Nat :=
  if cs.isEmpty then none else readDigits base 0 cs

/-- An integer: decimal with an optional leading `-` or `+`, or hexadecimal `0x..` (R81). -/
def readInteger : List Char → Option Int
  | '-' :: cs => (readNumber 10 cs).map (fun v => -(v : Int))
  | '+' :: cs => (readNumber 10 cs).map (fun v => (v : Int))
  | '0' :: 'x' :: cs => (readNumber 16 cs).map (fun v => (v : Int))
  | cs => (readNumber 10 cs).map (fun v => (v : Int))

/-- The operands of a line: integers separated by commas (R81). -/
def readOperands (cs : List Char) : Option (List Int) :=
  if (trimBlanks cs).isEmpty then some []
  else (splitCommas cs).mapM (fun part => readInteger (trimBlanks part))

/-- A ticks operand is unsigned: a negative one is out of range (R81). -/
def ticksOf (t : Int) : Except AsmReject Nat :=
  if 0 ≤ t then .ok t.toNat else .error .outOfRange

/-- The command of a mnemonic and its operands (R81, R82). -/
def commandOf (mnemonic : List Char) (operands : List Int) : Except AsmReject AsmCommand :=
  if mnemonic = "ADVANCE".toList then
    match operands with
    | [d] => .ok (.core (.advance d))
    | _ => .error .operandCount
  else if mnemonic = "WAIT".toList then
    match operands with
    | [n] => (ticksOf n).map (fun k => .core (.wait k))
    | _ => .error .operandCount
  else if mnemonic = "RUN".toList then
    match operands with
    | [c, t] => (ticksOf t).map (fun k => .core (.run c k))
    | _ => .error .operandCount
  else if mnemonic = "HOME".toList then
    match operands with
    | [c, t] => (ticksOf t).map (fun k => .core (.home c k))
    | _ => .error .operandCount
  else if mnemonic = "FWD".toList then
    match operands with
    | [n, t] => (ticksOf t).map (fun k => .fwd n k)
    | _ => .error .operandCount
  else if mnemonic = "REV".toList then
    match operands with
    | [n, t] => (ticksOf t).map (fun k => .rev n k)
    | _ => .error .operandCount
  else if mnemonic = "STEPF".toList then
    if operands.isEmpty then .ok .stepf else .error .operandCount
  else if mnemonic = "STEPB".toList then
    if operands.isEmpty then .ok .stepb else .error .operandCount
  else if mnemonic = "NOP".toList then
    if operands.isEmpty then .ok .nop else .error .operandCount
  else .error .unknownMnemonic

/-- One line: no word for a blank or comment line, one word for a command, or a rejection (R81). -/
def assembleLine (line : String) : Except AsmReject (Option Word) :=
  let text := trimBlanks (stripComment line.toList)
  if text.isEmpty then .ok none
  else
    let mnemonic := text.takeWhile (fun c => !isBlank c)
    match readOperands (text.dropWhile (fun c => !isBlank c)) with
    | none => .error .malformedOperand
    | some operands =>
      match commandOf mnemonic operands with
      | .error r => .error r
      | .ok a => (assembleCommand a).map some

/-- A program text: one command a line, its words in order (R81, R170). -/
def assembleLines : List String → Except AsmReject (List Word)
  | [] => .ok []
  | line :: lines =>
    match assembleLine line, assembleLines lines with
    | .error r, _ => .error r
    | .ok _, .error r => .error r
    | .ok none, .ok words => .ok words
    | .ok (some w), .ok words => .ok (w :: words)

end Sys2Proof.Machine
end

