-- ==== Sys2Proof/Safety.lean ====
section
/-! DEFINITION. The terms claims use: runs of turns, executions with the liveness premises, what a run
ends with, the invariants of the block and of its trace, and the trace a RUN or HOME leaves. Nothing
here is part of the machine. -/

namespace Sys2Proof.Machine

/-! ## Runs -/

/-- A function of the next state, where there is one. -/
def onNext (f : State → State) :
    Host.Outcome State Fault Refusal → Host.Outcome State Fault Refusal
  | .next s => .next (f s)
  | .fault r => .fault r
  | .refused r => .refused r

/-- The turns of a list, one after the other (R9, R61). -/
def runTurns : List Turn → State → Host.Outcome State Fault Refusal
  | [], s => .next s
  | t :: ts, s =>
    match takeTurn t s with
    | .next s' => runTurns ts s'
    | .fault r => .fault r
    | .refused r => .refused r

/-- The turn is one of the environment's: a tick, a move of the sensor or an offer (R6, R9). -/
def isEnvironment : Turn → Bool
  | .tick => true
  | .sensor _ => true
  | .offer _ => true
  | .sequencer => false
  | .reset => false

/-- A run in which only the environment acts: what may come between two Sequencer transitions (R9). -/
def EnvironmentRun (s : State) (ts : List Turn) (u : State) : Prop :=
  (∀ t ∈ ts, isEnvironment t = true) ∧ runTurns ts s = .next u

/-- A run of the listed turns in which RESET never comes and every turn is taken from a state with
`p`; the last state need not have it. -/
inductive RunWhile (p : State → Prop) : State → List Turn → State → Prop where
  | none (s : State) : RunWhile p s [] s
  | turn {s s' u : State} {t : Turn} {ts : List Turn} (here : p s) (noReset : t ≠ .reset)
      (taken : takeTurn t s = .next s') (rest : RunWhile p s' ts u) : RunWhile p s (t :: ts) u

/-- A run inside one command: every turn is taken from a state with BUSY = 1. -/
abbrev BusyRun : State → List Turn → State → Prop := RunWhile (fun s => s.ctrl ≠ .idle)

/-- How many of the listed turns are Sequencer turns taken from a state with `p`. -/
def countTaken (p : State → Bool) : List Turn → State → Nat
  | [], _ => 0
  | t :: ts, s =>
    (if t == .sequencer && p s then 1 else 0) +
      match takeTurn t s with
      | .next s' => countTaken p ts s'
      | .fault _ => 0
      | .refused _ => 0

/-- How many of the listed turns are ticks that set TF: ticks that find TF = 0. A tick that finds
TF = 1 merges with the one before it and sets nothing (R63, R112). -/
def flagSettings : List Turn → State → Nat
  | [], _ => 0
  | t :: ts, s =>
    (if t == .tick && !s.tf then 1 else 0) +
      match takeTurn t s with
      | .next s' => flagSettings ts s'
      | .fault _ => 0
      | .refused _ => 0

/-- The states the machine can be in: power-up with either value of the inputs, then any turns of
any agents in any order (R9, R31, R32). -/
inductive Reachable : State → Prop where
  | powerUp (tf hs : Bool) : Reachable (State.powerUp tf hs)
  | turn {s s' : State} (t : Turn) (before : Reachable s) (taken : takeTurn t s = .next s') :
      Reachable s'

/-- An infinite execution: `turns n` is the turn taken in `states n`. -/
def Execution (states : Nat → State) (turns : Nat → Turn) : Prop :=
  ∀ n, takeTurn (turns n) (states n) = .next (states (n + 1))

/-- TickSourceLive: whenever TF = 0 there is a later point at which the TickSource sets it (R166). -/
def TickSourceLive (states : Nat → State) (turns : Nat → Turn) : Prop :=
  ∀ n, (states n).tf = false → ∃ m, n ≤ m ∧ turns m = .tick

/-- Weak fairness: a Sequencer transition that stays enabled is eventually taken (R171). -/
def SequencerFair (states : Nat → State) (turns : Nat → Turn) : Prop :=
  ∀ n, (∀ m, n ≤ m → sequencerEnabled (states m) = true) → ∃ m, n ≤ m ∧ turns m = .sequencer

/-! ## What a run shows -/

/-- The observation of a run: its events and the final PHASE and STATUS (R11, R199). -/
structure Observation where
  events : List Event
  phase : Pattern
  status : StatusWord
  deriving DecidableEq, Repr

/-- The observation of the run up to a state (R11). -/
def observe (s : State) : Observation :=
  { events := s.trace, phase := s.phase, status := statusPort s }

/-- The turn offers a word. -/
def isOffer : Turn → Bool
  | .offer _ => true
  | .sequencer => false
  | .tick => false
  | .sensor _ => false
  | .reset => false

/-- The run of a program has ended: the Host has no further word to offer, every offered word is
accepted and CTRL = IDLE (R199). No further word is, in the model's form, no offer in the schedule
(log entry 3) and no word waiting in `offered` (log entry 5). -/
def runEnded (s : State) : Bool :=
  !s.schedule.any isOffer && s.offered.isEmpty && s.ctrl == .idle

/-- The event is a write of the phase lines. -/
def isPhaseWrite : Event → Bool
  | .phaseWrite _ => true
  | .cmdAccepted _ => false
  | .cmdRejected _ => false
  | .tickConsumed => false
  | .cmdDone => false
  | .reset => false

/-- The events of the step after `k` steps of a RUN from cursor `c` in direction `d` with `t` ticks a
step: one write, then `t` ticks (R123, R124). -/
def stepEvents (c : CursorWord) (d : Int) (t : Nat) (k : Nat) : List Event :=
  .phaseWrite (romRead (cursorPlus c (k * d))) :: List.replicate t .tickConsumed

/-- The events of the first `n` steps of a RUN or HOME (R124, R144). -/
def runEvents (c : CursorWord) (d : Int) (t n : Nat) : List Event :=
  (List.range n).flatMap (stepEvents c d t)

/-! ## Invariants -/

/-- The two patterns differ in exactly one bit (R93, R99). -/
def differInOneBit (p q : Pattern) : Bool := [1#4, 2#4, 4#4, 8#4].contains (p ^^^ q)

/-- PHASE is 0 with CURSOR 0 before the first write since RESET; after it PHASE is the entry next to
CURSOR that the last step wrote, on the one side or the other (R99, R100). -/
def phaseBesideCursor (s : State) : Bool :=
  (s.phase == 0#4 && s.cursor == 0#3) ||
    s.phase == romRead (cursorPlus s.cursor (-1)) || s.phase == romRead (cursorPlus s.cursor 1)

/-- What every step keeps of the block's registers. -/
structure RegistersInv (s : State) : Prop where
  /-- Whenever CTRL = WAIT, WCNT ≥ 1 (R29). -/
  waitCounts : s.ctrl = .wait → s.wcnt ≠ 0#8
  /-- CHECK belongs to a RUN or a HOME (R25, R26). -/
  checkKind : s.ctrl = .check → s.kind ≠ .kWait
  /-- The wait after a step counts down from TPS (R29, R122). -/
  pacedWait : s.ctrl = .wait → s.kind ≠ .kWait → s.wcnt.toNat ≤ s.tps.toNat
  /-- PHASE is an entry beside CURSOR, or nothing is written yet (R99, R100). -/
  phaseAt : phaseBesideCursor s = true

/-- What a reader of the trace alone knows of the block. -/
structure TraceView where
  phase : Pattern
  err : Bool
  busy : Bool
  deriving DecidableEq, Repr

/-- One more event for the reader (R11, R23, R30, R180). -/
def viewEvent (v : TraceView) : Event → TraceView
  | .cmdAccepted _ => { v with busy := true }
  | .cmdRejected _ => { v with err := true }
  | .phaseWrite p => { v with phase := p }
  | .tickConsumed => v
  | .cmdDone => { v with busy := false }
  | .reset => { phase := 0#4, err := false, busy := false }

/-- What the whole trace tells its reader. -/
def viewTrace (es : List Event) : TraceView :=
  es.foldl viewEvent { phase := 0#4, err := false, busy := false }

/-- Commands are serial (R61, R62, R184): a word is accepted or rejected only between commands, and a
write, a tick or an end belongs to an open command. The answer says whether a command is open at
the end, none if the order is broken. -/
def commandOpen : Bool → List Event → Option Bool
  | isOpen, [] => some isOpen
  | isOpen, .cmdAccepted _ :: es => if isOpen then none else commandOpen true es
  | isOpen, .cmdRejected _ :: es => if isOpen then none else commandOpen false es
  | isOpen, .phaseWrite _ :: es => if isOpen then commandOpen true es else none
  | isOpen, .tickConsumed :: es => if isOpen then commandOpen true es else none
  | isOpen, .cmdDone :: es => if isOpen then commandOpen false es else none
  | _, .reset :: es => commandOpen false es

/-- Every write changes the lines in exactly one bit, from the lines `p` on; RESET clears them (R99). -/
def writesChangeOneBit : Pattern → List Event → Bool
  | _, [] => true
  | p, .phaseWrite q :: es => differInOneBit p q && writesChangeOneBit q es
  | _, .reset :: es => writesChangeOneBit 0#4 es
  | p, .cmdAccepted _ :: es => writesChangeOneBit p es
  | p, .cmdRejected _ :: es => writesChangeOneBit p es
  | p, .tickConsumed :: es => writesChangeOneBit p es
  | p, .cmdDone :: es => writesChangeOneBit p es

/-- What every step keeps of the trace, given that PHASE stands beside CURSOR. -/
structure TraceInv (s : State) : Prop where
  /-- The trace tells PHASE, ERR and BUSY (R11, R23, R30, R33). -/
  tells : viewTrace s.trace = { phase := s.phase, err := s.err, busy := busy s }
  /-- Commands are serial, and one is open exactly while BUSY = 1 (R61, R62). -/
  serial : commandOpen false s.trace = some (busy s)
  /-- Every write since power-up changed one line (R99). -/
  oneBit : writesChangeOneBit 0#4 s.trace = true
  /-- The next write will again (R99, R100). -/
  phaseAt : phaseBesideCursor s = true

end Sys2Proof.Machine
end

