-- ==== Sys2Proof/Certificates/Slice0/Obligations.lean ====
section
/-! DEFINITION. The statements about HSSEQ, from the numbered rules of spec/. -/

open Sys2Proof Sys2Proof.Machine

/-! ## Command words -/

/-- Decoding the word of a well-formed command gives the command back, at every operand value
(30_encoding.md R71 to R73, R81). -/
def Obligations.DecodeOfEncodeIsTheCommand : Prop :=
  ∀ i : Instr, wellFormed i = true → decode (encode i) = .ok i

/-- Every word that decodes is the word of the command it decodes to, and that command is
well-formed: no bit of a legal word is dropped (R71 to R77). -/
def Obligations.DecodedWordIsTheEncodedCommand : Prop :=
  ∀ (w : Word) (i : Instr), decode w = .ok i → wellFormed i = true ∧ encode i = w

/-- R77: the illegal words are exactly those of its three items, and accepting one raises
IllegalCommand. -/
def Obligations.IllegalWordsAreExactlyTheListedOnes : Prop :=
  (∀ w : Word, (∃ r, decode w = .error r) ↔
    (w.extractLsb 31 24 ≠ 0x01#8 ∧ w.extractLsb 31 24 ≠ 0x02#8 ∧ w.extractLsb 31 24 ≠ 0x03#8 ∧
      w.extractLsb 31 24 ≠ 0x04#8) ∨
    (w.extractLsb 31 24 = 0x01#8 ∧ w.extractLsb 7 0 ≠ 0x00#8) ∨
    (w.extractLsb 31 24 = 0x02#8 ∧ w.extractLsb 23 8 ≠ 0x0000#16)) ∧
  (∀ (w : Word) (rest : List Word) (s : State), (∃ r, decode w = .error r) → s.ctrl = .idle →
    s.offered = w :: rest →
    takeTurn .sequencer s =
      .next { s with offered := rest, err := true, trace := s.trace ++ [.cmdRejected w] })

/-- R78: how many words each command has, and how many words are illegal. -/
def Obligations.LegalWordCounts : Prop :=
  Nat.card { w : Word // ∃ d, decode w = .ok (.advance d) } = 2 ^ 16 ∧
  Nat.card { w : Word // ∃ n, decode w = .ok (.wait n) } = 2 ^ 8 ∧
  Nat.card { w : Word // ∃ c t, decode w = .ok (.run c t) } = 2 ^ 24 ∧
  Nat.card { w : Word // ∃ c t, decode w = .ok (.home c t) } = 2 ^ 24 ∧
  Nat.card { w : Word // ∃ r, decode w = .error r } =
    2 ^ 32 - (2 ^ 16 + 2 ^ 8 + 2 ^ 24 + 2 ^ 24)

/-- R83: the encoding examples, as assembler text and as words. -/
def Obligations.ExampleWordsOfTheSpec : Prop :=
  (assembleLine "ADVANCE 1" = .ok (some 0x01000100#32) ∧ decode 0x01000100#32 = .ok (.advance 1)) ∧
  (assembleLine "ADVANCE -1" = .ok (some 0x01FFFF00#32) ∧
    decode 0x01FFFF00#32 = .ok (.advance (-1))) ∧
  (assembleLine "ADVANCE 0" = .ok (some 0x01000000#32) ∧ decode 0x01000000#32 = .ok (.advance 0)) ∧
  (assembleLine "WAIT 5" = .ok (some 0x02000005#32) ∧ decode 0x02000005#32 = .ok (.wait 5)) ∧
  (assembleLine "WAIT 0" = .ok (some 0x02000000#32) ∧ decode 0x02000000#32 = .ok (.wait 0)) ∧
  (assembleLine "RUN 8, 0" = .ok (some 0x03000800#32) ∧ decode 0x03000800#32 = .ok (.run 8 0)) ∧
  (assembleLine "RUN -3, 2" = .ok (some 0x03FFFD02#32) ∧
    decode 0x03FFFD02#32 = .ok (.run (-3) 2)) ∧
  (assembleLine "RUN 32767, 1" = .ok (some 0x037FFF01#32) ∧
    decode 0x037FFF01#32 = .ok (.run 32767 1)) ∧
  (assembleLine "RUN -32768, 0" = .ok (some 0x03800000#32) ∧
    decode 0x03800000#32 = .ok (.run (-32768) 0)) ∧
  (assembleLine "HOME -4076, 20" = .ok (some 0x04F01414#32) ∧
    decode 0x04F01414#32 = .ok (.home (-4076) 20)) ∧
  (assembleLine "HOME 10, 1" = .ok (some 0x04000A01#32) ∧ decode 0x04000A01#32 = .ok (.home 10 1))

/-- An assembler gives a command its word {OP, COUNT, TICKS} where every operand is in range, and
rejects it, without truncating, where one is not (R81). -/
def Obligations.AssemblerRejectsOutOfRangeOperands : Prop :=
  (∀ d : Int, assembleCommand (.core (.advance d)) =
    if -32768 ≤ d ∧ d ≤ 32767 then .ok (0x01#8 ++ BitVec.ofInt 16 d ++ 0x00#8)
    else .error .outOfRange) ∧
  (∀ n : Nat, assembleCommand (.core (.wait n)) =
    if n ≤ 255 then .ok (0x02#8 ++ 0x0000#16 ++ BitVec.ofNat 8 n) else .error .outOfRange) ∧
  (∀ (c : Int) (t : Nat), assembleCommand (.core (.run c t)) =
    if (-32768 ≤ c ∧ c ≤ 32767) ∧ t ≤ 255 then
      .ok (0x03#8 ++ BitVec.ofInt 16 c ++ BitVec.ofNat 8 t)
    else .error .outOfRange) ∧
  (∀ (c : Int) (t : Nat), assembleCommand (.core (.home c t)) =
    if (-32768 ≤ c ∧ c ≤ 32767) ∧ t ≤ 255 then
      .ok (0x04#8 ++ BitVec.ofInt 16 c ++ BitVec.ofNat 8 t)
    else .error .outOfRange)

/-- Each pseudo-instruction stands for exactly the word of its expansion, and its count has its own
range (R82). -/
def Obligations.PseudoInstructionsExpandToOneWord : Prop :=
  assembleCommand .stepf = assembleCommand (.core (.advance 1)) ∧
  assembleCommand .stepb = assembleCommand (.core (.advance (-1))) ∧
  assembleCommand .nop = assembleCommand (.core (.advance 0)) ∧
  (∀ (n : Int) (t : Nat), assembleCommand (.fwd n t) =
    if 0 ≤ n then assembleCommand (.core (.run n t)) else .error .outOfRange) ∧
  (∀ (n : Int) (t : Nat), assembleCommand (.rev n t) =
    if 0 ≤ n then assembleCommand (.core (.run (-n) t)) else .error .outOfRange)

/-! ## A step -/

/-- R80, the legal arms: when the Sequencer has the turn in IDLE and the word on the port decodes to
a command, the step consumes the word, records CmdAccepted and runs exactly that command. -/
def Obligations.StepRunsTheDecodedCommand : Prop :=
  ∀ (s : State) (w : Word) (rest : List Word) (i : Instr),
    nextTurn s = .sequencer → s.ctrl = .idle → s.offered = w :: rest →
    decode w = .ok i →
    step s = exec i { s with schedule := s.schedule.tail, offered := rest,
                             trace := s.trace ++ [.cmdAccepted w] }

/-- R151 as a step: an illegal word on the port is consumed, ERR becomes 1 and CmdRejected is
recorded; CTRL stays IDLE and nothing else of the block changes. That the Sequencer has the turn and
that the turn is taken off the schedule is the model's form of the interleaving (log entry 3). -/
def Obligations.IllegalCommandSetsErrAndNothingElse : Prop :=
  ∀ (s : State) (w : Word) (rest : List Word) (r : DecodeReject),
    nextTurn s = .sequencer → s.ctrl = .idle → s.offered = w :: rest →
    decode w = .error r →
    step s = .next { s with schedule := s.schedule.tail, offered := rest, err := true,
                            trace := s.trace ++ [.cmdRejected w] }

/-- The model's form of the interleaving of R9 (log entry 3): a step takes the turn at the head of
the schedule, and the Sequencer's where the schedule is empty. -/
def Obligations.StepTakesTheScheduledTurn : Prop :=
  (∀ (s : State) (t : Turn) (ts : List Turn), s.schedule = t :: ts →
    step s = takeTurn t { s with schedule := ts }) ∧
  (∀ s : State, s.schedule = [] → step s = takeTurn .sequencer s)

/-- Steps along a schedule are the turns of the schedule (R9, R61; log entry 3): so what is stated of
runs of turns holds of steps. -/
def Obligations.StepsAlongAScheduleAreItsTurns : Prop :=
  ∀ (ts rest : List Turn) (s : State),
    core.run ts.length ({ s with schedule := ts ++ rest } : State) =
      onNext (fun u => { u with schedule := rest }) (runTurns ts s)

/-- Every step answers a next state, whatever the state: HSSEQ has no fault and refuses no word
(R150, R154). That a hold answers a next state too is the model's choice (log entry 4), and so is the
schedule it leaves, the rest of the one it had (log entry 3). -/
def Obligations.EveryStepAnswersANextState : Prop :=
  ∀ s : State, ∃ s', step s = .next s' ∧ s'.schedule = s.schedule.tail ∧
    ∃ es, s'.trace = s.trace ++ es

/-- The turns of the environment: a tick sets TF and only TF, the sensor drives HS and only HS, an
offered word is held behind those offered before it (R31, R32, R70, R170; log entry 5). -/
def Obligations.EnvironmentTurnsChangeOnlyTheirInput : Prop :=
  ∀ s : State,
    takeTurn .tick s = .next { s with tf := true } ∧
    (∀ level, takeTurn (.sensor level) s = .next { s with hs := level }) ∧
    (∀ w, takeTurn (.offer w) s = .next { s with offered := s.offered ++ [w] })

/-! ## StepTable and ADVANCE -/

/-- R90, R91: the eight entries, as patterns and as sets of wires, and the wire mapping. -/
def Obligations.StepTableEntries : Prop :=
  [romRead 0, romRead 1, romRead 2, romRead 3, romRead 4, romRead 5, romRead 6, romRead 7] =
    [0b0001#4, 0b0011#4, 0b0010#4, 0b0110#4, 0b0100#4, 0b1100#4, 0b1000#4, 0b1001#4] ∧
  [phaseSet [.a], phaseSet [.a, .b], phaseSet [.b], phaseSet [.b, .c], phaseSet [.c],
      phaseSet [.c, .d], phaseSet [.d], phaseSet [.d, .a]] =
    [0x1#4, 0x3#4, 0x2#4, 0x6#4, 0x4#4, 0xC#4, 0x8#4, 0x9#4] ∧
  [Wire.a.bit, Wire.b.bit, Wire.c.bit, Wire.d.bit] = [0, 1, 2, 3]

/-- R93 and R94: neighbouring entries differ in exactly one bit, and opposite entries share none. -/
def Obligations.StepTableNeighboursAndOpposites : Prop :=
  ∀ c : CursorWord,
    (∃ k : Fin 4, romRead c ^^^ romRead (c + 1) = 1#4 <<< k.val) ∧
    romRead c &&& romRead (c + 4) = 0

/-- R96: ADV(d) writes the pattern at the cursor and only then moves the cursor, 3-bit and with wrap;
nothing else changes. -/
def Obligations.AdvWritesThePatternThenMoves : Prop :=
  ∀ (d : Int) (s : State), d = 1 ∨ d = -1 → ∃ s', adv d s = s' ∧
    s' = { s with
      phase := romRead s.cursor
      cursor := s'.cursor
      trace := s.trace ++ [.phaseWrite (romRead s.cursor)] } ∧
    s'.cursor.toNat =
      (if d = 1 then (if s.cursor = 7#3 then 0 else s.cursor.toNat + 1)
        else (if s.cursor = 0#3 then 7 else s.cursor.toNat - 1))

/-- R95, R96: ADVANCE writes the pattern at the cursor before it moves the cursor, by one in the
direction of the sign; with 0 it does nothing. It completes at once, and only CURSOR, PHASE and
the trace change. -/
def Obligations.AdvanceResult : Prop :=
  ∀ (x : Int) (s : State), exec (.advance x) s =
    if x = 0 then .next { s with trace := s.trace ++ [.cmdDone] }
    else .next { s with
      phase := romRead s.cursor
      cursor := if 0 < x then s.cursor + 1#3 else s.cursor - 1#3
      trace := s.trace ++ [.phaseWrite (romRead s.cursor), .cmdDone] }

/-- A step in one direction and then one in the other returns the cursor; the writes are
StepTable[c] and StepTable[c + d] (R97). -/
def Obligations.OppositeStepsReturnTheCursor : Prop :=
  ∀ (s : State) (d : Int), d = 1 ∨ d = -1 →
    let back := adv (-d) (adv d s)
    back.cursor = s.cursor ∧ back.phase = romRead (cursorPlus s.cursor d) ∧
    back.trace = s.trace ++ [.phaseWrite (romRead s.cursor),
      .phaseWrite (romRead (cursorPlus s.cursor d))]

/-- R98: after a write of StepTable[c] with direction d, the first step of the other direction
writes StepTable[c + d], one entry further, and returns CURSOR to c; only the second writes
StepTable[c] again, which is the entry the lines had. -/
def Obligations.ReversalLagsOneHalfStep : Prop :=
  ∀ (s : State) (c : CursorWord) (d : Int), d = 1 ∨ d = -1 →
    s.phase = romRead c → s.cursor = cursorPlus c d →
    (adv (-d) s).phase = romRead (cursorPlus c d) ∧ (adv (-d) s).cursor = c ∧
    (adv (-d) (adv (-d) s)).phase = romRead c

/-- R101: the cursor after a sequence of steps is the start plus the sum of the directions, mod 8;
for k steps of direction d it is (c + k·d) mod 8. -/
def Obligations.NetDisplacementOfSteps : Prop :=
  (∀ (ds : List Int) (s : State),
    ((ds.foldl (fun u d => adv d u) s).cursor.toNat : Int) = ((s.cursor.toNat : Int) + ds.sum) % 8) ∧
  (∀ (k : Nat) (d : Int) (s : State),
    (((fun u => adv d u)^[k] s).cursor.toNat : Int) = ((s.cursor.toNat : Int) + k * d) % 8)

/-- Only a step moves CURSOR or writes PHASE (R22, R23, R52, R96): a turn other than RESET either
leaves both and writes nothing, or is a Sequencer turn that writes StepTable[CURSOR] once and then
moves CURSOR by one. -/
def Obligations.OnlyStepsMoveCursorAndPhase : Prop :=
  ∀ (s s' : State) (t : Turn), t ≠ .reset → takeTurn t s = .next s' →
    ∃ es, s'.trace = s.trace ++ es ∧
      ((s'.cursor = s.cursor ∧ s'.phase = s.phase ∧ es.countP isPhaseWrite = 0) ∨
       (t = .sequencer ∧ s'.phase = romRead s.cursor ∧
        (s'.cursor = s.cursor + 1#3 ∨ s'.cursor = s.cursor - 1#3) ∧
        es.countP isPhaseWrite = 1 ∧ .phaseWrite (romRead s.cursor) ∈ es))

/-- A turn that writes the lines changes exactly one of them, in every state in which PHASE stands
beside CURSOR (R99, R100; the premise is kept by every step, see StepKeepsRegistersInvariant). -/
def Obligations.EveryPhaseWriteChangesOneLine : Prop :=
  ∀ (s s' : State) (t : Turn) (es : List Event) (p : Pattern), phaseBesideCursor s = true →
    takeTurn t s = .next s' → s'.trace = s.trace ++ es → .phaseWrite p ∈ es →
    s'.phase = p ∧ ∃ k : Fin 4, s.phase ^^^ p = 1#4 <<< k.val

/-- R99: along every run from power-up, with any turns of any agents, every PhaseWrite changes PHASE
in exactly one bit. -/
def Obligations.ReachableTracesChangeOneLineAWrite : Prop :=
  ∀ s : State, Reachable s → writesChangeOneBit 0#4 s.trace = true

/-! ## WAIT -/

/-- WAIT n starts a wait of n ticks, or completes at once for 0, and changes nothing else; TF stays
as it is (R106, R111). -/
def Obligations.WaitStart : Prop :=
  (∀ s : State, exec (.wait 0) s = .next { s with trace := s.trace ++ [.cmdDone] }) ∧
  (∀ (n : Nat) (s : State), n ≠ 0 → exec (.wait n) s =
    .next { s with wcnt := BitVec.ofNat 8 n, kind := .kWait, ctrl := .wait })

/-- R107, R108: in WAIT with TF = 1 the Sequencer's turn clears TF, records the tick and counts WCNT
down; at 0 it ends a WAIT with CmdDone and sends a RUN or HOME to its next CHECK. It is enabled iff
TF = 1. -/
def Obligations.TickTransition : Prop :=
  ∀ s : State, s.ctrl = .wait →
    (sequencerEnabled s = true ↔ s.tf = true) ∧
    (s.tf = true → s.wcnt ≠ 1#8 → takeTurn .sequencer s =
      .next { s with tf := false, wcnt := s.wcnt - 1#8, trace := s.trace ++ [.tickConsumed] }) ∧
    (s.tf = true → s.wcnt = 1#8 → s.kind = .kWait → takeTurn .sequencer s =
      .next { s with tf := false, wcnt := 0#8, ctrl := .idle,
                     trace := s.trace ++ [.tickConsumed, .cmdDone] }) ∧
    (s.tf = true → s.wcnt = 1#8 → s.kind ≠ .kWait → takeTurn .sequencer s =
      .next { s with tf := false, wcnt := 0#8, ctrl := .check, trace := s.trace ++ [.tickConsumed] })

/-- A wait with TF = 0 holds until a tick or RESET (R109, R154): any number of other turns changes
nothing but HS and the words the Host offers, none of which is taken. That a hold is a step that
leaves the state as it is, is the model's choice (log entry 4). -/
def Obligations.WaitHoldsWithoutATick : Prop :=
  ∀ (ts : List Turn) (s : State), s.ctrl = .wait → s.tf = false →
    (∀ t ∈ ts, t ≠ .tick ∧ t ≠ .reset) →
    sequencerEnabled s = false ∧
    ∃ (level : Bool) (more : List Word),
      runTurns ts s = .next { s with hs := level, offered := s.offered ++ more }

/-- R110: a wait with WCNT = n ≥ 1 that ends by ticks takes exactly n TICK transitions and records
exactly n TickConsumed, whoever started it and whatever the environment does meanwhile. -/
def Obligations.WaitConsumesExactlyItsTicks : Prop :=
  ∀ (s u : State) (ts : List Turn), s.ctrl = .wait → s.wcnt ≠ 0#8 →
    RunWhile (fun v => v.ctrl = .wait) s ts u → u.ctrl ≠ .wait →
    countTaken (fun v => v.ctrl == .wait && v.tf) ts s = s.wcnt.toNat ∧
    u.trace = s.trace ++ List.replicate s.wcnt.toNat .tickConsumed ++
      (if s.kind = .kWait then [.cmdDone] else []) ∧
    u.cursor = s.cursor ∧ u.phase = s.phase ∧ u.rem = s.rem ∧ u.tps = s.tps ∧
    u.kind = s.kind ∧ u.err = s.err ∧ u.wcnt = 0#8

/-- R111: a TF that is 1 when a wait starts is not cleared by the start, and the first TICK of the wait,
whatever the environment does before it, consumes TF as one of the n events: of the n of WAIT n, and
of the TPS of the wait after a step of a RUN or HOME. A CHECK of K_WAIT is in no run
(`RegistersInv.checkKind`, kept by every step: StepKeepsRegistersInvariant). -/
def Obligations.PendingTickCountsAsTheFirst : Prop :=
  (∀ (n : Nat) (s : State), 1 ≤ n → n ≤ 255 → s.tf = true →
    ∃ s1, exec (.wait n) s = .next s1 ∧ s1.tf = true ∧ s1.wcnt.toNat = n ∧
      ∀ (ts : List Turn) (s2 : State), EnvironmentRun s1 ts s2 →
        ∃ s3, takeTurn .sequencer s2 = .next s3 ∧ s3.tf = false ∧ s3.wcnt.toNat + 1 = n ∧
          s3.trace = s.trace ++ .tickConsumed :: (if n = 1 then [.cmdDone] else [])) ∧
  (∀ s s1 : State, s.ctrl = .check → s.kind ≠ .kWait → s.tf = true →
    takeTurn .sequencer s = .next s1 → s1.ctrl = .wait →
    s1.tf = true ∧ s1.wcnt = s.tps ∧
      ∀ (ts : List Turn) (s2 : State), EnvironmentRun s1 ts s2 →
        ∃ s3, takeTurn .sequencer s2 = .next s3 ∧ s3.tf = false ∧
          s3.wcnt.toNat + 1 = s1.wcnt.toNat ∧ s3.trace = s1.trace ++ [.tickConsumed])

/-- No tick is counted twice, and ticks that merge count once (R53, R63, R112): along any turns, the
ticks consumed, plus one if TF is left set, are exactly the settings of TF, that is the ticks that
find TF = 0, plus one if TF was set at the start. A tick that finds TF = 1 adds nothing, so they are
at most the ticks of the TickSource. -/
def Obligations.ConsumedTicksAreTicksOfTheSource : Prop :=
  ∀ (ts : List Turn) (s u : State), runTurns ts s = .next u →
    u.trace.count .tickConsumed + (if u.tf then 1 else 0) =
      s.trace.count .tickConsumed + (if s.tf then 1 else 0) + flagSettings ts s ∧
    u.trace.count .tickConsumed + (if u.tf then 1 else 0) ≤
      s.trace.count .tickConsumed + (if s.tf then 1 else 0) + ts.count .tick

/-- A WAIT or a RUN ends only if the TickSource gave it its ticks, a pending TF counting as one
(R113, R128): n ticks for WAIT n, |c|·t for RUN c, t. -/
def Obligations.CommandsEndOnlyWithTheirTicks : Prop :=
  (∀ (n : Nat) (s s1 u : State) (ts : List Turn), wellFormed (.wait n) = true →
    exec (.wait n) s = .next s1 → BusyRun s1 ts u → u.ctrl = .idle → s.ctrl = .idle →
    n ≤ ts.count .tick + (if s.tf then 1 else 0)) ∧
  (∀ (c : Int) (t : Nat) (s s1 u : State) (ts : List Turn), wellFormed (.run c t) = true →
    exec (.run c t) s = .next s1 → BusyRun s1 ts u → u.ctrl = .idle →
    c.natAbs * t ≤ ts.count .tick + (if s.tf then 1 else 0))

/-- R31: only a tick sets TF, only a TICK of a wait clears it, and RESET leaves it. -/
def Obligations.TickFlagOwners : Prop :=
  ∀ (s s' : State) (t : Turn), takeTurn t s = .next s' →
    (t = .tick → s'.tf = true) ∧
    (s.tf = false → s'.tf = true → t = .tick) ∧
    (s.tf = true → s'.tf = false → t = .sequencer ∧ s.ctrl = .wait ∧
      .tickConsumed ∈ s'.trace.drop s.trace.length) ∧
    (t = .reset → s'.tf = s.tf)

/-- TF is read in WAIT only: in any other state every turn but a tick does the same whatever TF is
(R31, R34, R53, R126). -/
def Obligations.TickFlagIsReadOnlyInAWait : Prop :=
  ∀ (s : State) (t : Turn) (flag : Bool), s.ctrl ≠ .wait → t ≠ .tick →
    takeTurn t { s with tf := flag } = onNext (fun u => { u with tf := flag }) (takeTurn t s)

/-! ## RUN and HOME -/

/-- RUN loads its operands and goes to CHECK; nothing else changes (R120). -/
def Obligations.RunStart : Prop :=
  ∀ (c : Int) (t : Nat) (s : State), exec (.run c t) s =
    .next { s with rem := BitVec.ofInt 16 c, tps := BitVec.ofNat 8 t, kind := .kRun, ctrl := .check }

/-- HOME loads its operands and goes to CHECK; nothing else changes (R140). -/
def Obligations.HomeStart : Prop :=
  ∀ (c : Int) (t : Nat) (s : State), exec (.home c t) s =
    .next { s with rem := BitVec.ofInt 16 c, tps := BitVec.ofNat 8 t, kind := .kHome, ctrl := .check }

/-- R121, R122, R141: CHECK ends the command where REM = 0, then where a HOME reads released, else
takes one step toward REM = 0 and starts the wait if TPS ≠ 0. It is always enabled. -/
def Obligations.CheckTransition : Prop :=
  ∀ s : State, s.ctrl = .check →
    sequencerEnabled s = true ∧
    ((s.rem = 0#16 ∨ (s.kind = .kHome ∧ s.hs = true)) → takeTurn .sequencer s =
      .next { s with ctrl := .idle, trace := s.trace ++ [.cmdDone] }) ∧
    (s.rem ≠ 0#16 → (s.kind = .kHome → s.hs = false) → takeTurn .sequencer s =
      .next { s with
        phase := romRead s.cursor
        cursor := if s.rem.toInt < 0 then s.cursor - 1#3 else s.cursor + 1#3
        rem := if s.rem.toInt < 0 then s.rem + 1#16 else s.rem - 1#16
        wcnt := if s.tps = 0#8 then s.wcnt else s.tps
        ctrl := if s.tps = 0#8 then .check else .wait
        trace := s.trace ++ [.phaseWrite (romRead s.cursor)] })

/-- R125: a step moves REM by one toward 0 as a signed number, so it never passes 0 and never
overflows; a CHECK that takes no step leaves it, and at 0 none is taken. -/
def Obligations.RemMovesOneTowardZero : Prop :=
  ∀ s s' : State, s.ctrl = .check → takeTurn .sequencer s = .next s' →
    (s'.ctrl = .idle → s'.rem = s.rem) ∧
    (s'.ctrl ≠ .idle → s.rem.toInt ≠ 0 ∧ s'.rem.toInt = s.rem.toInt - Int.sign s.rem.toInt ∧
      s'.rem.toInt.natAbs + 1 = s.rem.toInt.natAbs)

/-- R123, R124, R127: a RUN that completes has written |c| patterns from the table in order, each
followed by t ticks, the last one too, then CmdDone. It ends with CURSOR moved by c, REM = 0 and
PHASE the last entry written. -/
def Obligations.RunTraceAndFinalState : Prop :=
  ∀ (c : Int) (t : Nat) (s s1 u : State) (ts : List Turn), wellFormed (.run c t) = true →
    exec (.run c t) s = .next s1 → BusyRun s1 ts u → u.ctrl = .idle →
    (∃ es, es = runEvents s.cursor (Int.sign c) t c.natAbs ∧ u.trace = s.trace ++ es ++ [.cmdDone] ∧
      es.countP isPhaseWrite = c.natAbs ∧ es.count .tickConsumed = c.natAbs * t) ∧
    (u.cursor.toNat : Int) = ((s.cursor.toNat : Int) + c) % 8 ∧ u.rem = 0#16 ∧
    u.phase = (if c = 0 then s.phase else romRead (cursorPlus s.cursor (c - Int.sign c))) ∧
    u.err = s.err

/-- The first sentence of R128: a RUN with t = 0 completes with its (|c| + 1)-th CHECK, whatever the
environment does in between, and no wait is ever started (R126). -/
def Obligations.UnpacedRunCompletes : Prop :=
  ∀ (c : Int) (s s1 : State) (ts : List Turn), wellFormed (.run c 0) = true →
    exec (.run c 0) s = .next s1 → .reset ∉ ts → ts.count .sequencer = c.natAbs →
    ∃ u v, RunWhile (fun x => x.ctrl = .check) s1 ts u ∧ u.ctrl = .check ∧
      takeTurn .sequencer u = .next v ∧ v.ctrl = .idle ∧
      v.trace.count .tickConsumed = s.trace.count .tickConsumed

/-- R142: a HOME whose first CHECK reads released, and a HOME of count 0 whatever HS is, record only
CmdAccepted and CmdDone: no step and no tick. The environment may do anything between acceptance and
that CHECK, and HS is the level at the CHECK. -/
def Obligations.HomeAlreadyReleasedDoesNothing : Prop :=
  ∀ (w : Word) (rest : List Word) (c : Int) (t : Nat) (s : State),
    s.ctrl = .idle → s.offered = w :: rest → decode w = .ok (.home c t) →
    ∃ s1, takeTurn .sequencer s = .next s1 ∧ s1.ctrl = .check ∧
      ∀ (ts : List Turn) (s2 : State), EnvironmentRun s1 ts s2 → c = 0 ∨ s2.hs = true →
        ∃ s3, takeTurn .sequencer s2 = .next s3 ∧ s3.ctrl = .idle ∧
          s3.trace = s.trace ++ [.cmdAccepted w, .cmdDone] ∧ s3.cursor = s.cursor ∧
          s3.phase = s.phase ∧ s3.err = s.err ∧ s3.tf = s2.tf ∧ s3.rem.toInt = c

/-- R143: a HOME none of whose CHECKs reads HS = 1 does exactly what RUN does from the same state,
turn for turn; only KIND differs. -/
def Obligations.BoundedHomeIsARun : Prop :=
  ∀ (c : Int) (t : Nat) (s sh sr u : State) (ts : List Turn), wellFormed (.home c t) = true →
    exec (.home c t) s = .next sh → exec (.run c t) s = .next sr → BusyRun sh ts u →
    (∀ (before after : List Turn) (v : State), ts = before ++ .sequencer :: after →
      runTurns before sh = .next v → v.ctrl = .check → v.rem ≠ 0#16 → v.hs = false) →
    BusyRun sr ts { u with kind := .kRun }

/-- R144, R146: a HOME whose CHECK before step k is the first to read HS = 1 has taken exactly k − 1
steps with their ticks; it ends there with CURSOR where the steps took it and the untaken
remainder in REM. -/
def Obligations.HomeEarlyExitCounts : Prop :=
  ∀ (c : Int) (t k : Nat) (s sh u v : State) (ts : List Turn), wellFormed (.home c t) = true →
    exec (.home c t) s = .next sh → BusyRun sh ts u → u.ctrl = .check → u.rem ≠ 0#16 → u.hs = true →
    k = countTaken (fun x => x.ctrl == .check) ts sh + 1 →
    takeTurn .sequencer u = .next v →
    1 ≤ k ∧ k ≤ c.natAbs ∧ v.ctrl = .idle ∧
    (∃ es, es = runEvents s.cursor (Int.sign c) t (k - 1) ∧ v.trace = s.trace ++ es ++ [.cmdDone] ∧
      es.countP isPhaseWrite = k - 1 ∧ es.count .tickConsumed = (k - 1) * t) ∧
    (v.cursor.toNat : Int) = ((s.cursor.toNat : Int) + (k - 1 : Nat) * Int.sign c) % 8 ∧
    v.rem.toInt = c - (k - 1 : Nat) * Int.sign c

/-- HS is read only by a CHECK of a HOME with REM ≠ 0 (R121, R141, R145): elsewhere, and in every RUN,
each turn but the sensor's own does the same whatever HS is. -/
def Obligations.SensorIsReadOnlyByHomeChecks : Prop :=
  ∀ (s : State) (t : Turn) (level : Bool),
    ¬ (s.ctrl = .check ∧ s.kind = .kHome ∧ s.rem ≠ 0#16) → (∀ l, t ≠ .sensor l) →
    takeTurn t { s with hs := level } = onNext (fun u => { u with hs := level }) (takeTurn t s)

/-- R185: a host that moved in direction d moves the electrical position back by k ≥ 1 entries with a
RUN of −d·(k+2) steps. -/
def Obligations.ReversalCostsTwoHalfSteps : Prop :=
  ∀ (d : Int) (k t : Nat) (s s1 u : State) (ts : List Turn), d = 1 ∨ d = -1 → 1 ≤ k →
    wellFormed (.run (-d * (k + 2)) t) = true →
    s.phase = romRead (cursorPlus s.cursor (-d)) →
    exec (.run (-d * (k + 2)) t) s = .next s1 → BusyRun s1 ts u → u.ctrl = .idle →
    u.phase = romRead (cursorPlus (cursorPlus s.cursor (-d)) (-d * k))

/-! ## The port, the error flag, RESET and STATUS -/

/-- R35, R70, R80: a word is taken from the port only by the Sequencer in IDLE, and the word recorded
is the one on the port; a word offered while busy stays (R127, R184). -/
def Obligations.WordsAreTakenOnlyWhenReady : Prop :=
  ∀ (s s' : State) (t : Turn), takeTurn t s = .next s' →
    (∀ (es : List Event) (w : Word), s'.trace = s.trace ++ es →
      (.cmdAccepted w ∈ es ∨ .cmdRejected w ∈ es) →
      t = .sequencer ∧ cmdReady s = true ∧ s.offered = w :: s'.offered) ∧
    (s.ctrl ≠ .idle → ∃ more, s'.offered = s.offered ++ more)

/-- KIND and TPS are written only when the Sequencer accepts a command in IDLE, and by RESET; TPS not
by a WAIT (R26, R28). -/
def Obligations.KindAndTpsAreWrittenOnlyOnAcceptance : Prop :=
  ∀ (s s' : State) (t : Turn), takeTurn t s = .next s' →
    ((s'.kind ≠ s.kind ∨ s'.tps ≠ s.tps) → t = .reset ∨
      (t = .sequencer ∧ s.ctrl = .idle ∧ s'.ctrl ≠ .idle)) ∧
    (s'.tps ≠ s.tps → t = .reset ∨ s'.ctrl = .check)

/-- ERR is sticky and steers nothing (R30, R158): it is set by an illegal word only, cleared by RESET
only, and every turn does the same, ERR apart, whether it is set or not. -/
def Obligations.ErrIsStickyAndSteersNothing : Prop :=
  (∀ (s s' : State) (t : Turn), takeTurn t s = .next s' →
    (t ≠ .reset → s.err = true → s'.err = true) ∧
    (s.err = false → s'.err = true → t = .sequencer ∧ s.ctrl = .idle ∧
      ∃ w r, s.offered = w :: s'.offered ∧ decode w = .error r)) ∧
  (∀ (s : State) (t : Turn) (flag : Bool),
    onNext (fun u => { u with err := false }) (takeTurn t { s with err := flag }) =
      onNext (fun u => { u with err := false }) (takeTurn t s))

/-- R180, R38: RESET sets every register in one action, in every state; TF, HS and the offered words
stay. The machine's reset state has the same values, and STATUS then reads 0x00. -/
def Obligations.ResetSetsEveryRegister : Prop :=
  (∀ s : State, takeTurn .reset s =
    .next { s with cursor := 0#3, phase := 0#4, ctrl := .idle, kind := .kWait, rem := 0#16, tps := 0#8,
                   wcnt := 0#8, err := false, trace := s.trace ++ [.reset] }) ∧
  (∀ s s' : State, takeTurn .reset s = .next s' → statusPort s' = 0x00#8) ∧
  (∀ s : State, (s = State.reset ∨ ∃ tf hs, s = State.powerUp tf hs) →
    s.cursor = 0#3 ∧ s.phase = 0b0000#4 ∧ s.ctrl = .idle ∧ s.kind = .kWait ∧ s.rem = 0#16 ∧ s.tps = 0#8 ∧
    s.wcnt = 0#8 ∧ s.err = false ∧ statusPort s = 0x00#8)

/-- R183: the first step after RESET writes StepTable[0] = 0x1, whatever its direction and whichever
command takes it, also after commands without a step and after any turns of the environment; a TF
that is set stays for the first wait. Right after RESET that step is an ADVANCE's, or the first CHECK's
of a RUN, or of a HOME with HS = 0. -/
def Obligations.FirstStepAfterResetWritesEntryZero : Prop :=
  (∀ (s s1 u v : State) (ts : List Turn) (t : Turn) (es fs : List Event) (p : Pattern),
    takeTurn .reset s = .next s1 → runTurns ts s1 = .next u → .reset ∉ ts →
    u.trace = s1.trace ++ es → es.countP isPhaseWrite = 0 →
    takeTurn t u = .next v → v.trace = u.trace ++ fs → .phaseWrite p ∈ fs →
    p = 0x1#4 ∧ v.phase = 0x1#4 ∧ v.tf = u.tf) ∧
  (∀ s s1 : State, takeTurn .reset s = .next s1 →
    (∀ x : Int, x ≠ 0 → ∃ s2, exec (.advance x) s1 = .next s2 ∧ s2.phase = 0x1#4 ∧ s2.tf = s.tf) ∧
    (∀ (c : Int) (t : Nat), wellFormed (.run c t) = true → c ≠ 0 →
      ∃ s2 s3, exec (.run c t) s1 = .next s2 ∧ takeTurn .sequencer s2 = .next s3 ∧
        s3.phase = 0x1#4 ∧ s3.tf = s.tf) ∧
    (∀ (c : Int) (t : Nat), wellFormed (.home c t) = true → c ≠ 0 → s.hs = false →
      ∃ s2 s3, exec (.home c t) s1 = .next s2 ∧ takeTurn .sequencer s2 = .next s3 ∧
        s3.phase = 0x1#4 ∧ s3.tf = s.tf))

/-- R33: the layout of STATUS: CURSOR in [2:0], BUSY in [3], ERR in [4], [7:5] read 0; all of it reads 0
after reset. -/
def Obligations.StatusPortLayout : Prop :=
  ∀ s : State,
    (statusPort s).extractLsb 2 0 = s.cursor ∧
    ((statusPort s).getLsbD 3 = true ↔ s.ctrl ≠ .idle) ∧
    (statusPort s).getLsbD 4 = s.err ∧
    (statusPort s).extractLsb 7 5 = 0#3 ∧
    ∀ tf hs, statusPort (State.powerUp tf hs) = 0x00#8

/-- R114 and R9: the Sequencer holds exactly where no transition of it is enabled, in WAIT with TF = 0
and in IDLE with no word offered; then its turn leaves the state as it is (log entry 4), and
elsewhere it never does. -/
def Obligations.SequencerHoldsExactlyWhereDisabled : Prop :=
  ∀ s : State,
    (takeTurn .sequencer s = .next s ↔
      (s.ctrl = .wait ∧ s.tf = false) ∨ (s.ctrl = .idle ∧ s.offered = [])) ∧
    (takeTurn .sequencer s = .next s ↔ sequencerEnabled s = false)

/-- R199: an ended run stays ended, and its observation does not change, whatever turns but RESET and
new words come. That the Host has no further word to offer is, in the model's form, that no offer
stands in the schedule (log entry 3) and none waits behind the port (log entry 5); that the ended
Sequencer's hold is a step that answers a next state is the model's choice too (log entry 4). -/
def Obligations.EndedRunKeepsItsObservation : Prop :=
  ∀ s : State, runEnded s = true → nextTurn s ≠ .reset →
    ∃ s', step s = .next s' ∧ runEnded s' = true ∧ observe s' = observe s

/-! ## Invariants and termination -/

/-- Every step keeps the invariant of the registers: WCNT ≥ 1 in WAIT, a RUN or HOME behind CHECK, a
paced wait within TPS, PHASE beside CURSOR (R26, R29, R99, R100). -/
def Obligations.StepKeepsRegistersInvariant : Prop :=
  ∀ s s' : State, RegistersInv s → step s = .next s' → RegistersInv s'

/-- The invariant of the registers holds after reset, whatever TF and HS are. -/
def Obligations.ResetMeetsRegistersInvariant : Prop :=
  RegistersInv State.reset ∧ ∀ tf hs, RegistersInv (State.powerUp tf hs)

/-- Every step keeps the invariant of the trace: it tells PHASE, ERR and BUSY, commands are serial
and every write changes one line (R11, R61, R62, R99). -/
def Obligations.StepKeepsTraceInvariant : Prop :=
  ∀ s s' : State, TraceInv s → step s = .next s' → TraceInv s'

/-- The invariant of the trace holds after reset, whatever TF and HS are. -/
def Obligations.ResetMeetsTraceInvariant : Prop :=
  TraceInv State.reset ∧ ∀ tf hs, TraceInv (State.powerUp tf hs)

/-- R113, R128, R143, R166, R171: in every execution with a live tick source and a fair Sequencer, a
command in progress completes, if RESET does not come first, whatever the sensor and the host do. -/
def Obligations.EveryCommandCompletes : Prop :=
  ∀ (states : Nat → State) (turns : Nat → Turn), Execution states turns →
    TickSourceLive states turns → SequencerFair states turns →
    ∀ n, (states n).ctrl ≠ .idle → (∀ m, n ≤ m → turns m ≠ .reset) →
      ∃ m, n < m ∧ (states m).ctrl = .idle ∧ (states m).trace.getLast? = some .cmdDone
end

