-- ==== Sys2Proof/Laws/Encoding.lean ====
section
/-! SUPPORT. The fields of a command word and the operand ranges, said once (30_encoding.md R71, R73,
R81). -/

namespace Sys2Proof

theorem countInRange_iff (c : Int) : countInRange c = true ↔ -32768 ≤ c ∧ c ≤ 32767 := by
  simp only [countInRange, Bool.and_eq_true, decide_eq_true_eq]
  rfl

theorem ticksInRange_iff (t : Nat) : ticksInRange t = true ↔ t ≤ 255 := by
  simp only [ticksInRange, decide_eq_true_eq]
  rfl

/-! ## A word's three fields are independent (R71) -/

/-- The word as a number: each field at its place. -/
theorem toNat_assembleFields (op : OpField) (cnt : CountWord) (tk : TicksWord) :
    (assembleFields op cnt tk).toNat = op.toNat * 2 ^ 24 + cnt.toNat * 2 ^ 8 + tk.toNat := by
  change (op ++ cnt ++ tk).toNat = _
  rw [BitVec.toNat_append, BitVec.toNat_append, ← Nat.shiftLeft_add_eq_or_of_lt cnt.isLt,
    ← Nat.shiftLeft_add_eq_or_of_lt tk.isLt]
  simp only [Nat.shiftLeft_eq]
  omega

theorem toNat_opField (w : Word) : (opField w).toNat = w.toNat / 2 ^ 24 := by
  have := w.isLt
  simp only [opField, BitVec.extractLsb'_toNat, Nat.shiftRight_eq_div_pow]
  omega

theorem toNat_countField (w : Word) : (countField w).toNat = w.toNat / 2 ^ 8 % 2 ^ 16 := by
  simp only [countField, BitVec.extractLsb'_toNat, Nat.shiftRight_eq_div_pow]

theorem toNat_ticksField (w : Word) : (ticksField w).toNat = w.toNat % 2 ^ 8 := by
  simp only [ticksField, BitVec.extractLsb'_toNat, Nat.shiftRight_eq_div_pow, Nat.pow_zero,
    Nat.div_one]

@[simp] theorem opField_assembleFields (op : OpField) (cnt : CountWord) (tk : TicksWord) :
    opField (assembleFields op cnt tk) = op := by
  have := cnt.isLt; have := tk.isLt
  apply BitVec.eq_of_toNat_eq
  rw [toNat_opField, toNat_assembleFields]
  omega

@[simp] theorem countField_assembleFields (op : OpField) (cnt : CountWord) (tk : TicksWord) :
    countField (assembleFields op cnt tk) = cnt := by
  have := cnt.isLt; have := tk.isLt
  apply BitVec.eq_of_toNat_eq
  rw [toNat_countField, toNat_assembleFields]
  omega

@[simp] theorem ticksField_assembleFields (op : OpField) (cnt : CountWord) (tk : TicksWord) :
    ticksField (assembleFields op cnt tk) = tk := by
  have := tk.isLt
  apply BitVec.eq_of_toNat_eq
  rw [toNat_ticksField, toNat_assembleFields]
  omega

/-- A word is its three fields. -/
theorem assembleFields_fields (w : Word) :
    assembleFields (opField w) (countField w) (ticksField w) = w := by
  apply BitVec.eq_of_toNat_eq
  rw [toNat_assembleFields, toNat_opField, toNat_countField, toNat_ticksField]
  omega

/-! ## Fields and operands (R73) -/

theorem toInt_countBits {c : Int} (h : countInRange c = true) : (countBits c).toInt = c := by
  obtain ⟨hlo, hhi⟩ := (countInRange_iff c).1 h
  simp only [countBits, BitVec.toInt_ofInt, Int.bmod]
  omega

theorem toNat_ticksBits {t : Nat} (h : ticksInRange t = true) : (ticksBits t).toNat = t := by
  have ht := (ticksInRange_iff t).1 h
  simp only [ticksBits, BitVec.toNat_ofNat]
  omega

theorem countBits_countOperand (w : Word) : countBits (countOperand w) = countField w := by
  simp [countBits, countOperand]

theorem ticksBits_ticksOperand (w : Word) : ticksBits (ticksOperand w) = ticksField w := by
  simp [ticksBits, ticksOperand]

theorem countInRange_countOperand (w : Word) : countInRange (countOperand w) = true := by
  have hlo := BitVec.le_toInt (countField w)
  have hhi := BitVec.toInt_lt (x := countField w)
  rw [countInRange_iff]
  simp only [countOperand] at *
  omega

theorem ticksInRange_ticksOperand (w : Word) : ticksInRange (ticksOperand w) = true := by
  have h := (ticksField w).isLt
  rw [ticksInRange_iff]
  simp only [ticksOperand] at *
  omega

/-- What decoding can answer: a command of one of the four opcodes, or one of R77's rejections. -/
theorem decode_cases (w : Word) :
    (opField w = opAdvance ∧ ticksField w = 0#8 ∧ decode w = .ok (.advance (countOperand w))) ∨
    (opField w = opAdvance ∧ ticksField w ≠ 0#8 ∧
      decode w = .error (.advanceTicksNotZero (ticksField w))) ∨
    (opField w = opWait ∧ countField w = 0#16 ∧ decode w = .ok (.wait (ticksOperand w))) ∨
    (opField w = opWait ∧ countField w ≠ 0#16 ∧
      decode w = .error (.waitCountNotZero (countField w))) ∨
    (opField w = opRun ∧ decode w = .ok (.run (countOperand w) (ticksOperand w))) ∨
    (opField w = opHome ∧ decode w = .ok (.home (countOperand w) (ticksOperand w))) ∨
    (opField w ≠ opAdvance ∧ opField w ≠ opWait ∧ opField w ≠ opRun ∧ opField w ≠ opHome ∧
      decode w = .error (.unassignedOpcode (opField w))) := by
  unfold decode
  by_cases h1 : opField w = opAdvance
  · rw [if_pos h1]
    by_cases ht : ticksField w = 0#8
    · exact .inl ⟨h1, ht, if_pos ht⟩
    · exact .inr (.inl ⟨h1, ht, if_neg ht⟩)
  rw [if_neg h1]
  by_cases h2 : opField w = opWait
  · rw [if_pos h2]
    by_cases hc : countField w = 0#16
    · exact .inr (.inr (.inl ⟨h2, hc, if_pos hc⟩))
    · exact .inr (.inr (.inr (.inl ⟨h2, hc, if_neg hc⟩)))
  rw [if_neg h2]
  by_cases h3 : opField w = opRun
  · exact .inr (.inr (.inr (.inr (.inl ⟨h3, if_pos h3⟩))))
  rw [if_neg h3]
  by_cases h4 : opField w = opHome
  · exact .inr (.inr (.inr (.inr (.inr (.inl ⟨h4, if_pos h4⟩)))))
  · exact .inr (.inr (.inr (.inr (.inr (.inr ⟨h1, h2, h3, h4, if_neg h4⟩)))))

end Sys2Proof
end

