-- ==== Sys2Proof/Laws/State.lean ====
section
/-! SUPPORT. For every named update of the state, one lemma per field, true by rfl: later proofs never
unfold a record update. -/

namespace Sys2Proof.Machine

/-! `emit` (R11): the trace only. -/

@[simp] theorem State.emit_cursor (e : Event) (s : State) : (s.emit e).cursor = s.cursor := rfl
@[simp] theorem State.emit_phase (e : Event) (s : State) : (s.emit e).phase = s.phase := rfl
@[simp] theorem State.emit_ctrl (e : Event) (s : State) : (s.emit e).ctrl = s.ctrl := rfl
@[simp] theorem State.emit_kind (e : Event) (s : State) : (s.emit e).kind = s.kind := rfl
@[simp] theorem State.emit_rem (e : Event) (s : State) : (s.emit e).rem = s.rem := rfl
@[simp] theorem State.emit_tps (e : Event) (s : State) : (s.emit e).tps = s.tps := rfl
@[simp] theorem State.emit_wcnt (e : Event) (s : State) : (s.emit e).wcnt = s.wcnt := rfl
@[simp] theorem State.emit_err (e : Event) (s : State) : (s.emit e).err = s.err := rfl
@[simp] theorem State.emit_tf (e : Event) (s : State) : (s.emit e).tf = s.tf := rfl
@[simp] theorem State.emit_hs (e : Event) (s : State) : (s.emit e).hs = s.hs := rfl
@[simp] theorem State.emit_offered (e : Event) (s : State) : (s.emit e).offered = s.offered := rfl
@[simp] theorem State.emit_schedule (e : Event) (s : State) : (s.emit e).schedule = s.schedule := rfl
@[simp] theorem State.emit_trace (e : Event) (s : State) : (s.emit e).trace = s.trace ++ [e] := rfl

/-! PortWrite (R52): PHASE and one event. -/

@[simp] theorem portWrite_cursor (p : Pattern) (s : State) : (portWrite p s).cursor = s.cursor := rfl
@[simp] theorem portWrite_phase (p : Pattern) (s : State) : (portWrite p s).phase = p := rfl
@[simp] theorem portWrite_ctrl (p : Pattern) (s : State) : (portWrite p s).ctrl = s.ctrl := rfl
@[simp] theorem portWrite_kind (p : Pattern) (s : State) : (portWrite p s).kind = s.kind := rfl
@[simp] theorem portWrite_rem (p : Pattern) (s : State) : (portWrite p s).rem = s.rem := rfl
@[simp] theorem portWrite_tps (p : Pattern) (s : State) : (portWrite p s).tps = s.tps := rfl
@[simp] theorem portWrite_wcnt (p : Pattern) (s : State) : (portWrite p s).wcnt = s.wcnt := rfl
@[simp] theorem portWrite_err (p : Pattern) (s : State) : (portWrite p s).err = s.err := rfl
@[simp] theorem portWrite_tf (p : Pattern) (s : State) : (portWrite p s).tf = s.tf := rfl
@[simp] theorem portWrite_hs (p : Pattern) (s : State) : (portWrite p s).hs = s.hs := rfl
@[simp] theorem portWrite_offered (p : Pattern) (s : State) : (portWrite p s).offered = s.offered := rfl
@[simp] theorem portWrite_schedule (p : Pattern) (s : State) : (portWrite p s).schedule = s.schedule := rfl
@[simp] theorem portWrite_trace (p : Pattern) (s : State) : (portWrite p s).trace = s.trace ++ [.phaseWrite p] := rfl

/-! ADV (R96): the pattern at the cursor, then the cursor. -/

@[simp] theorem adv_cursor (d : Int) (s : State) : (adv d s).cursor = cursorPlus s.cursor d := rfl
@[simp] theorem adv_phase (d : Int) (s : State) : (adv d s).phase = romRead s.cursor := rfl
@[simp] theorem adv_ctrl (d : Int) (s : State) : (adv d s).ctrl = s.ctrl := rfl
@[simp] theorem adv_kind (d : Int) (s : State) : (adv d s).kind = s.kind := rfl
@[simp] theorem adv_rem (d : Int) (s : State) : (adv d s).rem = s.rem := rfl
@[simp] theorem adv_tps (d : Int) (s : State) : (adv d s).tps = s.tps := rfl
@[simp] theorem adv_wcnt (d : Int) (s : State) : (adv d s).wcnt = s.wcnt := rfl
@[simp] theorem adv_err (d : Int) (s : State) : (adv d s).err = s.err := rfl
@[simp] theorem adv_tf (d : Int) (s : State) : (adv d s).tf = s.tf := rfl
@[simp] theorem adv_hs (d : Int) (s : State) : (adv d s).hs = s.hs := rfl
@[simp] theorem adv_offered (d : Int) (s : State) : (adv d s).offered = s.offered := rfl
@[simp] theorem adv_schedule (d : Int) (s : State) : (adv d s).schedule = s.schedule := rfl
@[simp] theorem adv_trace (d : Int) (s : State) : (adv d s).trace = s.trace ++ [.phaseWrite (romRead s.cursor)] := rfl

/-! The end of a command (R11): CTRL and one event. -/

@[simp] theorem completeCommand_cursor (s : State) : (completeCommand s).cursor = s.cursor := rfl
@[simp] theorem completeCommand_phase (s : State) : (completeCommand s).phase = s.phase := rfl
@[simp] theorem completeCommand_ctrl (s : State) : (completeCommand s).ctrl = .idle := rfl
@[simp] theorem completeCommand_kind (s : State) : (completeCommand s).kind = s.kind := rfl
@[simp] theorem completeCommand_rem (s : State) : (completeCommand s).rem = s.rem := rfl
@[simp] theorem completeCommand_tps (s : State) : (completeCommand s).tps = s.tps := rfl
@[simp] theorem completeCommand_wcnt (s : State) : (completeCommand s).wcnt = s.wcnt := rfl
@[simp] theorem completeCommand_err (s : State) : (completeCommand s).err = s.err := rfl
@[simp] theorem completeCommand_tf (s : State) : (completeCommand s).tf = s.tf := rfl
@[simp] theorem completeCommand_hs (s : State) : (completeCommand s).hs = s.hs := rfl
@[simp] theorem completeCommand_offered (s : State) : (completeCommand s).offered = s.offered := rfl
@[simp] theorem completeCommand_schedule (s : State) : (completeCommand s).schedule = s.schedule := rfl
@[simp] theorem completeCommand_trace (s : State) : (completeCommand s).trace = s.trace ++ [.cmdDone] := rfl

/-! IllegalCommand (R151): ERR and one event. -/

@[simp] theorem raiseIllegalCommand_cursor (w : Word) (s : State) : (raiseIllegalCommand w s).cursor = s.cursor := rfl
@[simp] theorem raiseIllegalCommand_phase (w : Word) (s : State) : (raiseIllegalCommand w s).phase = s.phase := rfl
@[simp] theorem raiseIllegalCommand_ctrl (w : Word) (s : State) : (raiseIllegalCommand w s).ctrl = s.ctrl := rfl
@[simp] theorem raiseIllegalCommand_kind (w : Word) (s : State) : (raiseIllegalCommand w s).kind = s.kind := rfl
@[simp] theorem raiseIllegalCommand_rem (w : Word) (s : State) : (raiseIllegalCommand w s).rem = s.rem := rfl
@[simp] theorem raiseIllegalCommand_tps (w : Word) (s : State) : (raiseIllegalCommand w s).tps = s.tps := rfl
@[simp] theorem raiseIllegalCommand_wcnt (w : Word) (s : State) : (raiseIllegalCommand w s).wcnt = s.wcnt := rfl
@[simp] theorem raiseIllegalCommand_err (w : Word) (s : State) : (raiseIllegalCommand w s).err = true := rfl
@[simp] theorem raiseIllegalCommand_tf (w : Word) (s : State) : (raiseIllegalCommand w s).tf = s.tf := rfl
@[simp] theorem raiseIllegalCommand_hs (w : Word) (s : State) : (raiseIllegalCommand w s).hs = s.hs := rfl
@[simp] theorem raiseIllegalCommand_offered (w : Word) (s : State) : (raiseIllegalCommand w s).offered = s.offered := rfl
@[simp] theorem raiseIllegalCommand_schedule (w : Word) (s : State) : (raiseIllegalCommand w s).schedule = s.schedule := rfl
@[simp] theorem raiseIllegalCommand_trace (w : Word) (s : State) : (raiseIllegalCommand w s).trace = s.trace ++ [.cmdRejected w] := rfl

/-! RESET (R180): every register; TF, HS and the offered words stay. -/

@[simp] theorem resetAction_cursor (s : State) : (resetAction s).cursor = 0#3 := rfl
@[simp] theorem resetAction_phase (s : State) : (resetAction s).phase = 0#4 := rfl
@[simp] theorem resetAction_ctrl (s : State) : (resetAction s).ctrl = .idle := rfl
@[simp] theorem resetAction_kind (s : State) : (resetAction s).kind = .kWait := rfl
@[simp] theorem resetAction_rem (s : State) : (resetAction s).rem = 0#16 := rfl
@[simp] theorem resetAction_tps (s : State) : (resetAction s).tps = 0#8 := rfl
@[simp] theorem resetAction_wcnt (s : State) : (resetAction s).wcnt = 0#8 := rfl
@[simp] theorem resetAction_err (s : State) : (resetAction s).err = false := rfl
@[simp] theorem resetAction_tf (s : State) : (resetAction s).tf = s.tf := rfl
@[simp] theorem resetAction_hs (s : State) : (resetAction s).hs = s.hs := rfl
@[simp] theorem resetAction_offered (s : State) : (resetAction s).offered = s.offered := rfl
@[simp] theorem resetAction_schedule (s : State) : (resetAction s).schedule = s.schedule := rfl
@[simp] theorem resetAction_trace (s : State) : (resetAction s).trace = s.trace ++ [.reset] := rfl

/-! Acceptance takes the word off the port (R70). -/

@[simp] theorem consumeWord_cursor (s : State) : (consumeWord s).cursor = s.cursor := rfl
@[simp] theorem consumeWord_phase (s : State) : (consumeWord s).phase = s.phase := rfl
@[simp] theorem consumeWord_ctrl (s : State) : (consumeWord s).ctrl = s.ctrl := rfl
@[simp] theorem consumeWord_kind (s : State) : (consumeWord s).kind = s.kind := rfl
@[simp] theorem consumeWord_rem (s : State) : (consumeWord s).rem = s.rem := rfl
@[simp] theorem consumeWord_tps (s : State) : (consumeWord s).tps = s.tps := rfl
@[simp] theorem consumeWord_wcnt (s : State) : (consumeWord s).wcnt = s.wcnt := rfl
@[simp] theorem consumeWord_err (s : State) : (consumeWord s).err = s.err := rfl
@[simp] theorem consumeWord_tf (s : State) : (consumeWord s).tf = s.tf := rfl
@[simp] theorem consumeWord_hs (s : State) : (consumeWord s).hs = s.hs := rfl
@[simp] theorem consumeWord_offered (s : State) : (consumeWord s).offered = s.offered.tail := rfl
@[simp] theorem consumeWord_schedule (s : State) : (consumeWord s).schedule = s.schedule := rfl
@[simp] theorem consumeWord_trace (s : State) : (consumeWord s).trace = s.trace := rfl

/-! A tick (R31): TF only. -/

@[simp] theorem setTickFlag_cursor (s : State) : (setTickFlag s).cursor = s.cursor := rfl
@[simp] theorem setTickFlag_phase (s : State) : (setTickFlag s).phase = s.phase := rfl
@[simp] theorem setTickFlag_ctrl (s : State) : (setTickFlag s).ctrl = s.ctrl := rfl
@[simp] theorem setTickFlag_kind (s : State) : (setTickFlag s).kind = s.kind := rfl
@[simp] theorem setTickFlag_rem (s : State) : (setTickFlag s).rem = s.rem := rfl
@[simp] theorem setTickFlag_tps (s : State) : (setTickFlag s).tps = s.tps := rfl
@[simp] theorem setTickFlag_wcnt (s : State) : (setTickFlag s).wcnt = s.wcnt := rfl
@[simp] theorem setTickFlag_err (s : State) : (setTickFlag s).err = s.err := rfl
@[simp] theorem setTickFlag_tf (s : State) : (setTickFlag s).tf = true := rfl
@[simp] theorem setTickFlag_hs (s : State) : (setTickFlag s).hs = s.hs := rfl
@[simp] theorem setTickFlag_offered (s : State) : (setTickFlag s).offered = s.offered := rfl
@[simp] theorem setTickFlag_schedule (s : State) : (setTickFlag s).schedule = s.schedule := rfl
@[simp] theorem setTickFlag_trace (s : State) : (setTickFlag s).trace = s.trace := rfl

/-! The sensor (R32): HS only. -/

@[simp] theorem driveSensor_cursor (level : Bool) (s : State) : (driveSensor level s).cursor = s.cursor := rfl
@[simp] theorem driveSensor_phase (level : Bool) (s : State) : (driveSensor level s).phase = s.phase := rfl
@[simp] theorem driveSensor_ctrl (level : Bool) (s : State) : (driveSensor level s).ctrl = s.ctrl := rfl
@[simp] theorem driveSensor_kind (level : Bool) (s : State) : (driveSensor level s).kind = s.kind := rfl
@[simp] theorem driveSensor_rem (level : Bool) (s : State) : (driveSensor level s).rem = s.rem := rfl
@[simp] theorem driveSensor_tps (level : Bool) (s : State) : (driveSensor level s).tps = s.tps := rfl
@[simp] theorem driveSensor_wcnt (level : Bool) (s : State) : (driveSensor level s).wcnt = s.wcnt := rfl
@[simp] theorem driveSensor_err (level : Bool) (s : State) : (driveSensor level s).err = s.err := rfl
@[simp] theorem driveSensor_tf (level : Bool) (s : State) : (driveSensor level s).tf = s.tf := rfl
@[simp] theorem driveSensor_hs (level : Bool) (s : State) : (driveSensor level s).hs = level := rfl
@[simp] theorem driveSensor_offered (level : Bool) (s : State) : (driveSensor level s).offered = s.offered := rfl
@[simp] theorem driveSensor_schedule (level : Bool) (s : State) : (driveSensor level s).schedule = s.schedule := rfl
@[simp] theorem driveSensor_trace (level : Bool) (s : State) : (driveSensor level s).trace = s.trace := rfl

/-! An offer (R70): the port's words only. -/

@[simp] theorem offerWord_cursor (w : Word) (s : State) : (offerWord w s).cursor = s.cursor := rfl
@[simp] theorem offerWord_phase (w : Word) (s : State) : (offerWord w s).phase = s.phase := rfl
@[simp] theorem offerWord_ctrl (w : Word) (s : State) : (offerWord w s).ctrl = s.ctrl := rfl
@[simp] theorem offerWord_kind (w : Word) (s : State) : (offerWord w s).kind = s.kind := rfl
@[simp] theorem offerWord_rem (w : Word) (s : State) : (offerWord w s).rem = s.rem := rfl
@[simp] theorem offerWord_tps (w : Word) (s : State) : (offerWord w s).tps = s.tps := rfl
@[simp] theorem offerWord_wcnt (w : Word) (s : State) : (offerWord w s).wcnt = s.wcnt := rfl
@[simp] theorem offerWord_err (w : Word) (s : State) : (offerWord w s).err = s.err := rfl
@[simp] theorem offerWord_tf (w : Word) (s : State) : (offerWord w s).tf = s.tf := rfl
@[simp] theorem offerWord_hs (w : Word) (s : State) : (offerWord w s).hs = s.hs := rfl
@[simp] theorem offerWord_offered (w : Word) (s : State) : (offerWord w s).offered = s.offered ++ [w] := rfl
@[simp] theorem offerWord_schedule (w : Word) (s : State) : (offerWord w s).schedule = s.schedule := rfl
@[simp] theorem offerWord_trace (w : Word) (s : State) : (offerWord w s).trace = s.trace := rfl

/-! The turn taken (log entry 3): the schedule only. -/

@[simp] theorem dropTurn_cursor (s : State) : (dropTurn s).cursor = s.cursor := rfl
@[simp] theorem dropTurn_phase (s : State) : (dropTurn s).phase = s.phase := rfl
@[simp] theorem dropTurn_ctrl (s : State) : (dropTurn s).ctrl = s.ctrl := rfl
@[simp] theorem dropTurn_kind (s : State) : (dropTurn s).kind = s.kind := rfl
@[simp] theorem dropTurn_rem (s : State) : (dropTurn s).rem = s.rem := rfl
@[simp] theorem dropTurn_tps (s : State) : (dropTurn s).tps = s.tps := rfl
@[simp] theorem dropTurn_wcnt (s : State) : (dropTurn s).wcnt = s.wcnt := rfl
@[simp] theorem dropTurn_err (s : State) : (dropTurn s).err = s.err := rfl
@[simp] theorem dropTurn_tf (s : State) : (dropTurn s).tf = s.tf := rfl
@[simp] theorem dropTurn_hs (s : State) : (dropTurn s).hs = s.hs := rfl
@[simp] theorem dropTurn_offered (s : State) : (dropTurn s).offered = s.offered := rfl
@[simp] theorem dropTurn_schedule (s : State) : (dropTurn s).schedule = s.schedule.tail := rfl
@[simp] theorem dropTurn_trace (s : State) : (dropTurn s).trace = s.trace := rfl

end Sys2Proof.Machine
end

