-- ==== Sys2Proof/Laws/Ops.lean ====
section
/-! SUPPORT. One spec lemma for each shared operation: what it can do, said once. Later proofs cite
these and do not unfold the operation. -/

namespace Sys2Proof.Machine

/-! ## Sign and registers (00_scope.md R8, 42_run.md R125) -/

theorem sign_eq_int_sign (x : Int) : sign x = Int.sign x := by
  unfold sign
  split
  · rw [Int.sign_eq_one_of_pos ‹_›]
  · split
    · rw [Int.sign_eq_neg_one_of_neg ‹_›]
    · rw [show x = 0 by omega]; rfl

theorem sign_eq_zero_iff (x : Int) : sign x = 0 ↔ x = 0 := by
  unfold sign; split <;> [skip; split] <;> omega

theorem sign_of_pos {x : Int} (h : 0 < x) : sign x = 1 := if_pos h

theorem sign_of_neg {x : Int} (h : x < 0) : sign x = -1 := by
  unfold sign; rw [if_neg (by omega), if_pos h]

/-- The sign of a nonzero register is one of the two directions. -/
theorem sign_signed_cases {r : CountWord} (h : r ≠ 0#16) :
    (0 < signed r ∧ sign (signed r) = 1) ∨ (signed r < 0 ∧ sign (signed r) = -1) := by
  have hne : signed r ≠ 0 := fun h0 => h (BitVec.eq_of_toInt_eq (by simpa [signed] using h0))
  rcases Int.lt_or_gt_of_ne hne with hn | hp
  · exact .inr ⟨hn, sign_of_neg hn⟩
  · exact .inl ⟨hp, sign_of_pos hp⟩

/-- One step toward 0 never overflows (R125). -/
theorem signed_remMinus_sign {r : CountWord} (h : r ≠ 0#16) :
    signed (remMinus r (sign (signed r))) = signed r - sign (signed r) := by
  have hlo := BitVec.le_toInt r
  have hhi := BitVec.toInt_lt (x := r)
  rcases sign_signed_cases h with ⟨hs, hd⟩ | ⟨hs, hd⟩ <;> rw [hd] <;>
    simp only [signed, remMinus, BitVec.toInt_sub] at * <;> simp [Int.bmod] at * <;> omega

/-- An operand in range is what its register holds (R73). -/
theorem signed_countRegister {c : Int} (h : countInRange c = true) : signed (countRegister c) = c :=
  toInt_countBits h

theorem toNat_ticksRegister {t : Nat} (h : ticksInRange t = true) : (ticksRegister t).toNat = t :=
  toNat_ticksBits h

/-! ## The cursor and the table (R8, R90, R93) -/

theorem cursorPlus_zero (c : CursorWord) : cursorPlus c 0 = c := by simp [cursorPlus]

theorem cursorPlus_add (c : CursorWord) (a b : Int) :
    cursorPlus (cursorPlus c a) b = cursorPlus c (a + b) := by
  simp [cursorPlus, BitVec.ofInt_add, BitVec.add_assoc]

theorem cursorPlus_one (c : CursorWord) : cursorPlus c 1 = c + 1#3 := rfl

theorem cursorPlus_neg_one (c : CursorWord) : cursorPlus c (-1) = c - 1#3 := by
  revert c; decide

/-- The cursor arithmetic is arithmetic mod 8 with wraparound (R8). -/
theorem cursorPlus_toNat (c : CursorWord) (d : Int) :
    ((cursorPlus c d).toNat : Int) = ((c.toNat : Int) + d) % 8 := by
  simp [cursorPlus, BitVec.toNat_add, BitVec.toNat_ofInt]
  omega

theorem differInOneBit_comm (p q : Pattern) : differInOneBit p q = differInOneBit q p := by
  simp only [differInOneBit, BitVec.xor_comm]

/-- Neighbouring entries differ in one bit, from either side. -/
theorem romRead_neighbours (c : CursorWord) :
    differInOneBit (romRead c) (romRead (cursorPlus c 1)) = true ∧
      differInOneBit (romRead c) (romRead (cursorPlus c (-1))) = true := by
  revert c; decide

/-- The first entry and the de-energized lines differ in one bit. -/
theorem romRead_zero_from_off : differInOneBit (romRead 0#3) 0#4 = true := by decide

/-- The next write changes one line, wherever the last step came from (R99). -/
theorem next_write_differs {s : State} (h : phaseBesideCursor s = true) :
    differInOneBit s.phase (romRead s.cursor) = true := by
  rw [differInOneBit_comm]
  simp only [phaseBesideCursor, Bool.or_eq_true, Bool.and_eq_true, beq_iff_eq] at h
  rcases h with (⟨hp, hc⟩ | hp) | hp
  · rw [hp, hc]; exact romRead_zero_from_off
  · rw [hp]; exact (romRead_neighbours s.cursor).2
  · rw [hp]; exact (romRead_neighbours s.cursor).1

/-- A step leaves PHASE beside CURSOR (R100). -/
theorem phaseBesideCursor_of_step {s : State} {c : CursorWord} {d : Int} (hd : d = 1 ∨ d = -1)
    (hp : s.phase = romRead c) (hc : s.cursor = cursorPlus c d) : phaseBesideCursor s = true := by
  rcases hd with rfl | rfl <;> simp [phaseBesideCursor, hp, hc, cursorPlus_add, cursorPlus_zero]

/-! ## The Sequencer's transitions -/

/-- TickTake (R53). -/
theorem tickTake_of_set {s : State} (h : s.tf = true) :
    tickTake s = (true, { s with tf := false }.emit .tickConsumed) := by simp [tickTake, h]

theorem tickTake_of_clear {s : State} (h : s.tf = false) : tickTake s = (false, s) := by
  simp [tickTake, h]

/-- ADVANCE (R95). -/
theorem execAdvance_eq (x : Int) (s : State) :
    execAdvance x s = .next ((if x = 0 then s else adv (sign x) s).emit .cmdDone) := by
  by_cases h : x = 0 <;> simp [execAdvance, sign_eq_zero_iff, h]

/-- What the Sequencer's turn does in WAIT: hold, count, end a WAIT, or go to CHECK (R107 to R109). -/
theorem waitTurn_cases (s : State) :
    (s.tf = false ∧ waitTurn s = s) ∨
    (s.tf = true ∧ s.wcnt ≠ 1#8 ∧ waitTurn s =
      { s with tf := false, wcnt := s.wcnt - 1#8, trace := s.trace ++ [.tickConsumed] }) ∨
    (s.tf = true ∧ s.wcnt = 1#8 ∧ s.kind = .kWait ∧ waitTurn s =
      { s with tf := false, wcnt := 0#8, ctrl := .idle,
               trace := s.trace ++ [.tickConsumed, .cmdDone] }) ∨
    (s.tf = true ∧ s.wcnt = 1#8 ∧ s.kind ≠ .kWait ∧ waitTurn s =
      { s with tf := false, wcnt := 0#8, ctrl := .check, trace := s.trace ++ [.tickConsumed] }) := by
  cases htf : s.tf
  · exact .inl ⟨rfl, by simp [waitTurn, tickTake_of_clear htf]⟩
  · right
    by_cases hw : s.wcnt = 1#8
    · right
      cases hk : s.kind
      · exact .inl ⟨rfl, hw, rfl, by
          simp [waitTurn, tickTake_of_set htf, countTick, hw, endWait, hk, completeCommand,
            State.emit]⟩
      · exact .inr ⟨rfl, hw, by simp, by
          simp [waitTurn, tickTake_of_set htf, countTick, hw, endWait, hk, State.emit]⟩
      · exact .inr ⟨rfl, hw, by simp, by
          simp [waitTurn, tickTake_of_set htf, countTick, hw, endWait, hk, State.emit]⟩
    · have hne : s.wcnt - 1#8 ≠ 0#8 := fun h0 => hw (by bv_omega)
      exact .inl ⟨rfl, hw, by simp [waitTurn, tickTake_of_set htf, countTick, hne, State.emit]⟩

/-- What STEP does (R122). -/
theorem stepAction_eq (s : State) :
    stepAction s =
      { s with
        phase := romRead s.cursor
        cursor := cursorPlus s.cursor (sign (signed s.rem))
        rem := remMinus s.rem (sign (signed s.rem))
        wcnt := if s.tps = 0#8 then s.wcnt else s.tps
        ctrl := if s.tps = 0#8 then .check else .wait
        trace := s.trace ++ [.phaseWrite (romRead s.cursor)] } := by
  by_cases h : s.tps = 0#8 <;> simp [stepAction, adv, portWrite, State.emit, h]

/-- What CHECK does: end the command, or take a step (R121, R141). -/
theorem checkTurn_cases (s : State) :
    ((s.rem = 0#16 ∨ (s.rem ≠ 0#16 ∧ s.kind = .kHome ∧ s.hs = true)) ∧ checkTurn s = completeCommand s) ∨
    (s.rem ≠ 0#16 ∧ (s.kind = .kHome → s.hs = false) ∧ checkTurn s = stepAction s) := by
  by_cases hr : s.rem = 0#16
  · exact .inl ⟨.inl hr, by simp [checkTurn, hr]⟩
  · by_cases hk : s.kind = .kHome
    · cases hh : s.hs
      · exact .inr ⟨hr, fun _ => rfl, by simp [checkTurn, hr, sensorRead, Config.hsReleased, hh]⟩
      · exact .inl ⟨.inr ⟨hr, hk, rfl⟩, by
          simp [checkTurn, hr, hk, sensorRead, Config.hsReleased, hh]⟩
    · exact .inr ⟨hr, fun h => absurd h hk, by simp [checkTurn, hr, hk]⟩

end Sys2Proof.Machine
end

