-- ==== Sys2Proof/Laws/PerInstr.lean ====
section
/-! SUPPORT. The family EncodedFields: the word of each command has its opcode and its operands in the
fields of format F, and 0 in its must-be-zero field (30_encoding.md R71, R72). -/

namespace Sys2Proof.Laws.EncodedFields

/-- The opcode of a command (R72). -/
def opcode : Instr → OpField
  | .advance _ => 0x01#8
  | .wait _ => 0x02#8
  | .run _ _ => 0x03#8
  | .home _ _ => 0x04#8

/-- The COUNT field of a command, 0 for WAIT (R75). -/
def count : Instr → CountWord
  | .advance d => countBits d
  | .wait _ => 0#16
  | .run c _ => countBits c
  | .home c _ => countBits c

/-- The TICKS field of a command, 0 for ADVANCE (R74). -/
def ticks : Instr → TicksWord
  | .advance _ => 0#8
  | .wait n => ticksBits n
  | .run _ t => ticksBits t
  | .home _ t => ticksBits t

/-- The word of the command has these three fields. -/
def Statement (i : Instr) : Prop :=
  opField (encode i) = opcode i ∧ countField (encode i) = count i ∧ ticksField (encode i) = ticks i

theorem advance (d : Int) : Statement (.advance d) := by
  simp [Statement, encode, opcode, count, ticks, opAdvance]

theorem wait (n : Nat) : Statement (.wait n) := by
  simp [Statement, encode, opcode, count, ticks, opWait]

theorem run (c : Int) (t : Nat) : Statement (.run c t) := by
  simp [Statement, encode, opcode, count, ticks, opRun]

theorem home (c : Int) (t : Nat) : Statement (.home c t) := by
  simp [Statement, encode, opcode, count, ticks, opHome]

end Sys2Proof.Laws.EncodedFields
end

