-- ==== Sys2Proof/Laws/Turns.lean ====
section
/-! SUPPORT. What a turn can do, said once: `TurnEffect` lists every next state a turn can answer, and
`takeTurn_effect` says there is no other. Invariants and frames are proved by cases on it. -/

namespace Sys2Proof.Machine

/-- A legal word on an idle port: the state in which its command starts. -/
abbrev accepted (s : State) (w : Word) (rest : List Word) : State :=
  { s with offered := rest, trace := s.trace ++ [.cmdAccepted w] }

/-- Every effect of one turn, with the state it leaves. -/
inductive TurnEffect (s : State) : Turn → State → Prop where
  /-- No Sequencer transition is enabled (R9, R109). -/
  | hold (disabled : (s.ctrl = .idle ∧ s.offered = []) ∨ (s.ctrl = .wait ∧ s.tf = false)) :
      TurnEffect s .sequencer s
  /-- ACCEPT of an illegal word (R151). -/
  | reject (w : Word) (rest : List Word) (r : DecodeReject) (idle : s.ctrl = .idle)
      (port : s.offered = w :: rest) (illegal : decode w = .error r) :
      TurnEffect s .sequencer
        { s with offered := rest, err := true, trace := s.trace ++ [.cmdRejected w] }
  /-- ACCEPT of ADVANCE 0 (R95). -/
  | advanceNone (w : Word) (rest : List Word) (idle : s.ctrl = .idle)
      (port : s.offered = w :: rest) (legal : decode w = .ok (.advance 0)) :
      TurnEffect s .sequencer
        { s with offered := rest, trace := s.trace ++ [.cmdAccepted w, .cmdDone] }
  /-- ACCEPT of ADVANCE in a direction (R95, R96). -/
  | advance (w : Word) (rest : List Word) (x d : Int) (idle : s.ctrl = .idle)
      (port : s.offered = w :: rest) (legal : decode w = .ok (.advance x)) (dir : d = sign x)
      (unit : d = 1 ∨ d = -1) :
      TurnEffect s .sequencer
        { s with
          offered := rest
          phase := romRead s.cursor
          cursor := cursorPlus s.cursor d
          trace := s.trace ++ [.cmdAccepted w, .phaseWrite (romRead s.cursor), .cmdDone] }
  /-- ACCEPT of WAIT 0 (R106). -/
  | waitNone (w : Word) (rest : List Word) (idle : s.ctrl = .idle)
      (port : s.offered = w :: rest) (legal : decode w = .ok (.wait 0)) :
      TurnEffect s .sequencer
        { s with offered := rest, trace := s.trace ++ [.cmdAccepted w, .cmdDone] }
  /-- ACCEPT of WAIT n (R106). -/
  | waitStart (w : Word) (rest : List Word) (n : Nat) (idle : s.ctrl = .idle)
      (port : s.offered = w :: rest) (legal : decode w = .ok (.wait n)) (some : n ≠ 0)
      (fits : ticksRegister n ≠ 0#8) :
      TurnEffect s .sequencer
        { s with
          offered := rest
          wcnt := ticksRegister n
          kind := .kWait
          ctrl := .wait
          trace := s.trace ++ [.cmdAccepted w] }
  /-- ACCEPT of RUN (R120). -/
  | runStart (w : Word) (rest : List Word) (c : Int) (n : Nat) (idle : s.ctrl = .idle)
      (port : s.offered = w :: rest) (legal : decode w = .ok (.run c n)) :
      TurnEffect s .sequencer
        { s with
          offered := rest
          rem := countRegister c
          tps := ticksRegister n
          kind := .kRun
          ctrl := .check
          trace := s.trace ++ [.cmdAccepted w] }
  /-- ACCEPT of HOME (R140). -/
  | homeStart (w : Word) (rest : List Word) (c : Int) (n : Nat) (idle : s.ctrl = .idle)
      (port : s.offered = w :: rest) (legal : decode w = .ok (.home c n)) :
      TurnEffect s .sequencer
        { s with
          offered := rest
          rem := countRegister c
          tps := ticksRegister n
          kind := .kHome
          ctrl := .check
          trace := s.trace ++ [.cmdAccepted w] }
  /-- CHECK that ends the command (R121, R141). -/
  | finish (here : s.ctrl = .check)
      (ends : s.rem = 0#16 ∨ (s.rem ≠ 0#16 ∧ s.kind = .kHome ∧ s.hs = true)) :
      TurnEffect s .sequencer { s with ctrl := .idle, trace := s.trace ++ [.cmdDone] }
  /-- CHECK that takes a step (R122). -/
  | step (d : Int) (here : s.ctrl = .check) (more : s.rem ≠ 0#16)
      (goesOn : s.kind = .kHome → s.hs = false) (dir : d = sign (signed s.rem))
      (unit : d = 1 ∨ d = -1) :
      TurnEffect s .sequencer
        { s with
          phase := romRead s.cursor
          cursor := cursorPlus s.cursor d
          rem := remMinus s.rem d
          wcnt := if s.tps = 0#8 then s.wcnt else s.tps
          ctrl := if s.tps = 0#8 then .check else .wait
          trace := s.trace ++ [.phaseWrite (romRead s.cursor)] }
  /-- TICK that leaves ticks to come (R107). -/
  | tickMore (here : s.ctrl = .wait) (flag : s.tf = true) (more : s.wcnt ≠ 1#8) :
      TurnEffect s .sequencer
        { s with tf := false, wcnt := s.wcnt - 1#8, trace := s.trace ++ [.tickConsumed] }
  /-- The last TICK of a WAIT (R107, R108). -/
  | tickDone (here : s.ctrl = .wait) (flag : s.tf = true) (last : s.wcnt = 1#8)
      (owner : s.kind = .kWait) :
      TurnEffect s .sequencer
        { s with
          tf := false
          wcnt := 0#8
          ctrl := .idle
          trace := s.trace ++ [.tickConsumed, .cmdDone] }
  /-- The last TICK of the wait after a step (R107, R108). -/
  | tickCheck (here : s.ctrl = .wait) (flag : s.tf = true) (last : s.wcnt = 1#8)
      (owner : s.kind ≠ .kWait) :
      TurnEffect s .sequencer
        { s with tf := false, wcnt := 0#8, ctrl := .check, trace := s.trace ++ [.tickConsumed] }
  /-- The TickSource (R31). -/
  | tick : TurnEffect s .tick { s with tf := true }
  /-- The HomeSensor (R32). -/
  | sensor (level : Bool) : TurnEffect s (.sensor level) { s with hs := level }
  /-- The Host (R70). -/
  | offer (w : Word) : TurnEffect s (.offer w) { s with offered := s.offered ++ [w] }
  /-- RESET (R180). -/
  | reset : TurnEffect s .reset (resetAction s)

/-- A decoded WAIT's tick count fits its register. -/
theorem ticksRegister_ne_zero_of_decode {w : Word} {n : Nat} (h : decode w = .ok (.wait n))
    (hn : n ≠ 0) : ticksRegister n ≠ 0#8 := by
  have hdec : n = ticksOperand w := by
    rcases decode_cases w with ⟨_, _, e⟩ | ⟨_, _, e⟩ | ⟨_, _, e⟩ | ⟨_, _, e⟩ | ⟨_, e⟩ | ⟨_, e⟩ |
      ⟨_, _, _, _, e⟩ <;> rw [e] at h <;> cases h
    rfl
  have hr := toNat_ticksRegister (hdec ▸ ticksInRange_ticksOperand w)
  exact fun h0 => hn (by rw [← hr, h0]; rfl)

/-- ACCEPT answers one of its effects, with the word consumed. -/
theorem acceptWord_effect {s : State} {w : Word} {rest : List Word} (idle : s.ctrl = .idle)
    (port : s.offered = w :: rest) :
    ∃ s', acceptWord w s = .next s' ∧ TurnEffect s .sequencer s' := by
  have hcons : (consumeWord s).emit (.cmdAccepted w) = accepted s w rest := by
    simp [consumeWord, State.emit, port]
  unfold acceptWord
  cases hd : decode w with
  | error r =>
    exact ⟨_, rfl, by
      simpa [raiseIllegalCommand, consumeWord, State.emit, port] using
        TurnEffect.reject w rest r idle port hd⟩
  | ok i =>
    dsimp only
    rw [hcons]
    cases i with
    | advance x =>
      refine ⟨_, execAdvance_eq x _, ?_⟩
      by_cases hx : x = 0
      · subst hx
        simpa [State.emit, accepted] using TurnEffect.advanceNone w rest idle port hd
      · have hunit : sign x = 1 ∨ sign x = -1 := by
          rcases Int.lt_or_gt_of_ne hx with h | h
          · exact .inr (sign_of_neg h)
          · exact .inl (sign_of_pos h)
        simpa [hx, State.emit, accepted, adv, portWrite] using
          TurnEffect.advance w rest x (sign x) idle port hd rfl hunit
    | wait n =>
      by_cases hn : n = 0
      · subst hn
        exact ⟨_, rfl, by simpa [State.emit] using TurnEffect.waitNone w rest idle port hd⟩
      · exact ⟨_, if_neg hn, .waitStart w rest n idle port hd hn
          (ticksRegister_ne_zero_of_decode hd hn)⟩
    | run c n => exact ⟨_, rfl, .runStart w rest c n idle port hd⟩
    | home c n => exact ⟨_, rfl, .homeStart w rest c n idle port hd⟩

/-- The Sequencer's turn answers one of its effects. -/
theorem sequencerTurn_effect (s : State) :
    ∃ s', sequencerTurn s = .next s' ∧ TurnEffect s .sequencer s' := by
  unfold sequencerTurn
  cases hc : s.ctrl with
  | idle =>
    cases ho : s.offered with
    | nil => exact ⟨s, by simp [cmdWord, ho], .hold (.inl ⟨hc, ho⟩)⟩
    | cons w rest =>
      obtain ⟨s', e, h⟩ := acceptWord_effect hc ho
      exact ⟨s', by simpa [cmdWord, ho] using e, h⟩
  | check =>
    refine ⟨_, rfl, ?_⟩
    rcases checkTurn_cases s with ⟨hend, e⟩ | ⟨hr, hgo, e⟩
    · rw [e]; exact .finish hc hend
    · rw [e, stepAction_eq]
      exact .step _ hc hr hgo rfl ((sign_signed_cases hr).imp And.right And.right)
  | wait =>
    refine ⟨_, rfl, ?_⟩
    rcases waitTurn_cases s with ⟨hf, e⟩ | ⟨hf, hw, e⟩ | ⟨hf, hw, hk, e⟩ | ⟨hf, hw, hk, e⟩ <;> rw [e]
    · exact .hold (.inr ⟨hc, hf⟩)
    · exact .tickMore hc hf hw
    · exact .tickDone hc hf hw hk
    · exact .tickCheck hc hf hw hk

/-- Every turn answers a next state, and it is one of the effects. -/
theorem takeTurn_answers (t : Turn) (s : State) :
    ∃ s', takeTurn t s = .next s' ∧ TurnEffect s t s' := by
  cases t with
  | sequencer => exact sequencerTurn_effect s
  | tick => exact ⟨_, rfl, .tick⟩
  | sensor level => exact ⟨_, rfl, .sensor level⟩
  | offer w => exact ⟨_, rfl, .offer w⟩
  | reset => exact ⟨_, rfl, .reset⟩

/-- The inversion lemma: a next state of a turn is one of the effects. -/
theorem takeTurn_effect {t : Turn} {s s' : State} (h : takeTurn t s = .next s') :
    TurnEffect s t s' := by
  obtain ⟨u, e, hu⟩ := takeTurn_answers t s
  rw [e] at h
  cases h
  exact hu

/-- What the environment can do between two Sequencer transitions: set TF, move HS and offer words
(R9, R31, R32, R70). -/
theorem environmentRun_effect {ts : List Turn} {s u : State} (h : EnvironmentRun s ts u) :
    ∃ (flag level : Bool) (more : List Word),
      u = { s with tf := s.tf || flag, hs := level, offered := s.offered ++ more } := by
  obtain ⟨env, run⟩ := h
  induction ts generalizing s with
  | nil => cases run; exact ⟨false, u.hs, [], by simp⟩
  | cons t ts ih =>
    obtain ⟨s', taken, effect⟩ := takeTurn_answers t s
    simp only [runTurns, taken] at run
    obtain ⟨flag, level, more, rfl⟩ := ih (fun x hx => env x (.tail _ hx)) run
    have here := env t (.head _)
    cases effect with
    | tick => exact ⟨true, level, more, by simp⟩
    | sensor l => exact ⟨flag, level, more, rfl⟩
    | offer w => exact ⟨flag, level, w :: more, by simp⟩
    | reset => cases here
    | _ => cases here

end Sys2Proof.Machine
end

