-- ==== Sys2Proof/Tests/Slice0.lean ====
section
/-! SUPPORT. Small tests and witnesses. Expected values come from the spec: the opcode map and examples of
30_encoding.md (R72, R77, R83), the vectors of 95_test_vectors.md, and the rules named. Each
`witness_…` shows that the hypotheses of a statement can be met together. -/

namespace Sys2Proof.Tests

open Sys2Proof.Machine

/-! ## Helpers -/

/-- Idle, with one word on the port. -/
def ready (w : Word) : State := { State.powerUp false false with offered := [w] }

/-- In CHECK, with a count, the ticks a step and the sensor level. -/
def inCheck (k : Kind) (rem : CountWord) (tps : TicksWord) (hs : Bool) : State :=
  { State.powerUp false hs with ctrl := .check, kind := k, rem := rem, tps := tps }

/-- In a wait for `n` ticks. -/
def inWait (k : Kind) (n : TicksWord) (tf : Bool) : State :=
  { State.powerUp tf false with ctrl := .wait, kind := k, wcnt := n, tps := n }

/-- A view of the next state, none where there is no next state. -/
def view {α : Type} (f : State → α) : Host.Outcome State Fault Refusal → Option α
  | .next s => some (f s)
  | .fault _ => none
  | .refused _ => none

/-! ## WellFormed refuses (R81) -/

theorem test_wf_advance_high : wellFormed (.advance 32768) = false := by decide
theorem test_wf_advance_low : wellFormed (.advance (-32769)) = false := by decide
theorem test_wf_wait_high : wellFormed (.wait 256) = false := by decide
theorem test_wf_run_count : wellFormed (.run 32768 0) = false := by decide
theorem test_wf_run_ticks : wellFormed (.run 0 256) = false := by decide
theorem test_wf_home_count : wellFormed (.home (-32769) 0) = false := by decide
theorem test_wf_home_ticks : wellFormed (.home 0 256) = false := by decide
theorem test_wf_bounds_accepted :
    wellFormed (.advance (-32768)) = true ∧ wellFormed (.wait 255) = true ∧
      wellFormed (.run 32767 255) = true ∧ wellFormed (.home (-32768) 0) = true := by decide

/-! ## Decode: words written from the encodings (R72, R77; vector V1) -/

theorem test_decode_advance :
    decode 0b00000001000000000000000100000000#32 = .ok (.advance 1) ∧
      decode 0b00000001100000000000000000000000#32 = .ok (.advance (-32768)) := by decide
theorem test_decode_wait :
    decode 0b00000010000000000000000011111111#32 = .ok (.wait 255) ∧
      decode 0x02000000#32 = .ok (.wait 0) := by decide
theorem test_decode_run :
    decode 0b00000011111111111111110100000010#32 = .ok (.run (-3) 2) ∧
      decode 0x03FFFFFF#32 = .ok (.run (-1) 255) := by decide
theorem test_decode_home :
    decode 0b00000100111100000001010000010100#32 = .ok (.home (-4076) 20) ∧
      decode 0x04800000#32 = .ok (.home (-32768) 0) := by decide
theorem test_decode_rejects_must_be_zero :
    decode 0x01000001#32 = .error (.advanceTicksNotZero 1) ∧
      decode 0x02000100#32 = .error (.waitCountNotZero 1) := by decide
theorem test_decode_rejects_opcodes :
    decode 0x00000000#32 = .error (.unassignedOpcode 0) ∧
      decode 0x05000000#32 = .error (.unassignedOpcode 5) ∧
      decode 0xFFFFFFFF#32 = .error (.unassignedOpcode 255) := by decide

/-! ## The host's questions of a table row -/

theorem test_decodeTableWord : decodeTableWord 32 0x04000A01 = some (.home 10 1) := by decide
theorem test_decodeTableWord_illegal : decodeTableWord 32 0x02000100 = none := by decide
theorem test_withFetchWord_runs_it :
    step (State.reset.withFetchWord 32 0x03FFFD02) =
      exec (.run (-3) 2)
        { State.reset with trace := [.reset, .cmdAccepted 0x03FFFD02#32] } := by rfl

/-! ## One step of each command and transition (vectors V1 to V6) -/

/-- V2: CURSOR 0, ADVANCE -1 writes 0x1 and leaves 7. -/
theorem test_advance_back_wraps :
    view (fun s => (s.phase, s.cursor)) (step (ready 0x01FFFF00#32)) = some (0x1#4, 7#3) := by
  decide
/-- V2: CURSOR 7, ADVANCE 1 writes 0x9 and leaves 0. -/
theorem test_advance_forward_wraps :
    view (fun s => (s.phase, s.cursor)) (step { ready 0x01000100#32 with cursor := 7#3 }) =
      some (0x9#4, 0#3) := by decide
/-- V3: WAIT 0 with TF = 1 is done at once and leaves TF. -/
theorem test_wait_zero :
    view (fun s => (s.tf, s.ctrl, s.trace))
        (step { ready 0x02000000#32 with tf := true }) =
      some (true, .idle, [.reset, .cmdAccepted 0x02000000#32, .cmdDone]) := by decide
/-- V1: WAIT 255 holds the count. -/
theorem test_wait_starts :
    view (fun s => (s.wcnt, s.ctrl, s.kind)) (step (ready 0x020000FF#32)) =
      some (255#8, .wait, .kWait) := by decide
/-- R83, R140: HOME -4076, 20. -/
theorem test_home_starts :
    view (fun s => (s.rem, s.tps, s.kind, s.ctrl)) (step (ready 0x04F01414#32)) =
      some (0xF014#16, 20#8, .kHome, .check) := by decide
/-- V4: the first step of RUN -32768 moves REM to -32767 and the cursor to 7 (R125). -/
theorem test_step_of_least_count :
    view (fun s => (s.rem, s.cursor, s.phase, s.ctrl)) (step (inCheck .kRun 0x8000#16 0#8 true)) =
      some (0x8001#16, 7#3, 0x1#4, .check) := by decide
/-- R122: a paced step starts its wait. -/
theorem test_paced_step_waits :
    view (fun s => (s.wcnt, s.ctrl, s.rem)) (step (inCheck .kRun 2#16 3#8 true)) =
      some (3#8, .wait, 1#16) := by decide
/-- V5: HOME with HS = 1 ends at the CHECK and leaves REM (R141). -/
theorem test_home_early_exit :
    view (fun s => (s.ctrl, s.rem, s.cursor, s.trace)) (step (inCheck .kHome 3#16 0#8 true)) =
      some (.idle, 3#16, 0#3, [.reset, .cmdDone]) := by decide
/-- R108: the last tick of a RUN's wait goes to CHECK, of a WAIT to IDLE. -/
theorem test_last_tick :
    view (fun s => (s.ctrl, s.tf)) (step (inWait .kRun 1#8 true)) = some (.check, false) ∧
      view (fun s => (s.ctrl, s.tf)) (step (inWait .kWait 1#8 true)) = some (.idle, false) := by
  decide
/-- V6: an illegal word sets ERR and nothing else. -/
theorem test_illegal_word :
    step (ready 0x00000000#32) =
      .next { State.reset with err := true, trace := [.reset, .cmdRejected 0x00000000#32] } := by
  rfl
/-- V6: RESET in the middle of a RUN's wait. -/
theorem test_reset_abandons_a_run :
    view (fun s => (s.ctrl, s.rem, s.wcnt, s.tf))
        (step { inWait .kRun 1#8 true with rem := 3#16, schedule := [.reset] }) =
      some (.idle, 0#16, 0#8, true) := by decide
/-- P3: STATUS 0x15 is CURSOR 5 with ERR. -/
theorem test_status_cursor_and_err :
    statusPort { State.reset with cursor := 5#3, err := true } = 0x15#8 := by decide
/-- R197: 4076 steps at 20 ticks are 81520 ticks, about 83.5 s. -/
theorem test_nominal_sweep_time : Config.nominalMicros (4076 * 20) = 83476480 := by decide

/-! ## Assembler (R81, R82) -/

theorem test_assemble_hex_and_comment :
    assembleLine "RUN 0x7FFF, 1 ; sweep" = .ok (some 0x037FFF01#32) := by decide
theorem test_assemble_rejects_range :
    assembleLine "WAIT 256" = .error .outOfRange ∧
      assembleLine "ADVANCE 0xFFFF" = .error .outOfRange := by decide
theorem test_assemble_rejects_text :
    assembleLine "RUN 8" = .error .operandCount ∧ assembleLine "RUN 8, x" = .error .malformedOperand ∧
      assembleLine "STOP" = .error .unknownMnemonic := by decide
theorem test_assemble_pseudo :
    assembleLines ["STEPF", "STEPB", "; note", "FWD 3, 0", "REV 3, 2", "NOP"] =
      .ok [0x01000100#32, 0x01FFFF00#32, 0x03000300#32, 0x03FFFD02#32, 0x01000000#32] := by decide

/-! ## Witnesses: the hypotheses of the statements can be met -/

theorem witness_DecodeOfEncodeIsTheCommand :
    wellFormed (.advance (-32768)) = true ∧ wellFormed (.wait 255) = true ∧
      wellFormed (.run 32767 255) = true ∧ wellFormed (.home (-32768) 0) = true := by decide

theorem witness_DecodedWordIsTheEncodedCommand :
    decode 0x017FFF00#32 = .ok (.advance 32767) ∧ decode 0x020000FF#32 = .ok (.wait 255) ∧
      decode 0x03800000#32 = .ok (.run (-32768) 0) ∧
      decode 0x04FFFFFF#32 = .ok (.home (-1) 255) := by decide

theorem witness_IllegalWordsAreExactlyTheListedOnes :
    (∃ r, decode 0x010000FF#32 = .error r) ∧ (ready 0x010000FF#32).ctrl = .idle ∧
      (ready 0x010000FF#32).offered = 0x010000FF#32 :: [] := ⟨⟨_, rfl⟩, rfl, rfl⟩

theorem witness_StepRunsTheDecodedCommand :
    nextTurn (ready 0x020000FF#32) = .sequencer ∧ (ready 0x020000FF#32).ctrl = .idle ∧
      (ready 0x020000FF#32).offered = 0x020000FF#32 :: [] ∧
      decode 0x020000FF#32 = .ok (.wait 255) := by decide

theorem witness_IllegalCommandSetsErrAndNothingElse :
    nextTurn (ready 0x05000000#32) = .sequencer ∧ (ready 0x05000000#32).ctrl = .idle ∧
      (ready 0x05000000#32).offered = 0x05000000#32 :: [] ∧
      decode 0x05000000#32 = .error (.unassignedOpcode 5) := by decide

theorem witness_StepTakesTheScheduledTurn :
    { State.reset with schedule := [.tick] }.schedule = .tick :: [] ∧
      State.reset.schedule = [] := by decide

theorem witness_AdvWritesThePatternThenMoves :
    ((1 : Int) = 1 ∨ (1 : Int) = -1) ∧ ((-1 : Int) = 1 ∨ (-1 : Int) = -1) := by decide

theorem witness_OppositeStepsReturnTheCursor :
    (1 : Int) = 1 ∨ (1 : Int) = -1 := .inl rfl

/-- The entry 7 is written in direction +1, across the wrap of the cursor. -/
theorem witness_ReversalLagsOneHalfStep :
    ((1 : Int) = 1 ∨ (1 : Int) = -1) ∧
      { State.reset with phase := 0x9#4, cursor := 0#3 }.phase = romRead 7#3 ∧
      { State.reset with phase := 0x9#4, cursor := 0#3 }.cursor = cursorPlus 7#3 1 := by decide

theorem witness_OnlyStepsMoveCursorAndPhase :
    Turn.sequencer ≠ .reset ∧
      ∃ s', takeTurn .sequencer (inCheck .kRun 1#16 0#8 false) = .next s' := ⟨by decide, _, rfl⟩

theorem witness_EveryPhaseWriteChangesOneLine :
    phaseBesideCursor (inCheck .kRun 1#16 0#8 false) = true ∧
      ∃ s', takeTurn .sequencer (inCheck .kRun 1#16 0#8 false) = .next s' ∧
        s'.trace = (inCheck .kRun 1#16 0#8 false).trace ++ [.phaseWrite 0x1#4] ∧
        Event.phaseWrite 0x1#4 ∈ [Event.phaseWrite 0x1#4] :=
  ⟨by decide, _, rfl, by decide, by decide⟩

theorem witness_ReachableTracesChangeOneLineAWrite : Reachable State.reset := .powerUp false false

theorem witness_WaitStart : (255 : Nat) ≠ 0 := by decide

theorem witness_TickTransition :
    ((inWait .kWait 255#8 true).ctrl = .wait ∧ (inWait .kWait 255#8 true).tf = true ∧
      (inWait .kWait 255#8 true).wcnt ≠ 1#8) ∧
    ((inWait .kWait 1#8 true).ctrl = .wait ∧ (inWait .kWait 1#8 true).tf = true ∧
      (inWait .kWait 1#8 true).wcnt = 1#8 ∧ (inWait .kWait 1#8 true).kind = .kWait) ∧
    ((inWait .kHome 1#8 true).ctrl = .wait ∧ (inWait .kHome 1#8 true).tf = true ∧
      (inWait .kHome 1#8 true).wcnt = 1#8 ∧ (inWait .kHome 1#8 true).kind ≠ .kWait) := by decide

theorem witness_WaitHoldsWithoutATick :
    (inWait .kRun 1#8 false).ctrl = .wait ∧ (inWait .kRun 1#8 false).tf = false ∧
      ∀ t ∈ [Turn.sequencer, .sensor true, .offer 0x01000100#32],
        t ≠ .tick ∧ t ≠ .reset := by decide

theorem witness_WaitConsumesExactlyItsTicks :
    (inWait .kWait 1#8 false).ctrl = .wait ∧ (inWait .kWait 1#8 false).wcnt ≠ 0#8 ∧
      ∃ u, RunWhile (fun v => v.ctrl = .wait) (inWait .kWait 1#8 false) [.tick, .sequencer] u ∧
        u.ctrl ≠ .wait :=
  ⟨by decide, by decide, _,
    .turn rfl (by decide) rfl (.turn rfl (by decide) rfl (.none _)), by decide⟩

/-- WAIT 1 and WAIT 255 with TF set, and a step with 255 ticks; a tick and a sensor move come before
the first TICK. -/
theorem witness_PendingTickCountsAsTheFirst :
    ((1 : Nat) ≤ 1 ∧ (255 : Nat) ≤ 255 ∧ (State.powerUp true false).tf = true ∧
      ∃ s1 s2, exec (.wait 255) (State.powerUp true false) = .next s1 ∧
        EnvironmentRun s1 [.tick, .sensor true] s2) ∧
    (∃ s1 s2, takeTurn .sequencer { inCheck .kHome 1#16 255#8 false with tf := true } = .next s1 ∧
      s1.ctrl = .wait ∧ EnvironmentRun s1 [.tick, .sensor true] s2) :=
  ⟨⟨by decide, by decide, rfl, _, _, rfl, by decide, rfl⟩, _, _, rfl, rfl, by decide, rfl⟩

/-- Two ticks that merge before the TICK count once: two ticks, one setting of TF (R112). -/
theorem witness_ConsumedTicksAreTicksOfTheSource :
    (∃ u, runTurns [.tick, .tick, .sequencer] (inWait .kWait 1#8 false) = .next u ∧
      u.trace.count .tickConsumed = 1) ∧
    flagSettings [.tick, .tick, .sequencer] (inWait .kWait 1#8 false) = 1 :=
  ⟨⟨_, rfl, by decide⟩, by decide⟩

theorem witness_CommandsEndOnlyWithTheirTicks :
    (wellFormed (.wait 1) = true ∧ ∃ s1 u, exec (.wait 1) State.reset = .next s1 ∧
      BusyRun s1 [.tick, .sequencer] u ∧ u.ctrl = .idle ∧ State.reset.ctrl = .idle) ∧
    (wellFormed (.run 1 1) = true ∧ ∃ s1 u, exec (.run 1 1) State.reset = .next s1 ∧
      BusyRun s1 [.sequencer, .tick, .sequencer, .sequencer] u ∧ u.ctrl = .idle) :=
  ⟨⟨by decide, _, _, rfl,
      .turn (by decide) (by decide) rfl (.turn (by decide) (by decide) rfl (.none _)), rfl, rfl⟩,
    ⟨by decide, _, _, rfl,
      .turn (by decide) (by decide) rfl (.turn (by decide) (by decide) rfl
        (.turn (by decide) (by decide) rfl (.turn (by decide) (by decide) rfl (.none _)))), rfl⟩⟩

theorem witness_TickFlagOwners :
    (∃ s', takeTurn .tick State.reset = .next s' ∧ State.reset.tf = false ∧ s'.tf = true) ∧
    (∃ s', takeTurn .sequencer (inWait .kWait 1#8 true) = .next s' ∧
      (inWait .kWait 1#8 true).tf = true ∧ s'.tf = false) :=
  ⟨⟨_, rfl, rfl, rfl⟩, ⟨_, rfl, rfl, rfl⟩⟩

theorem witness_TickFlagIsReadOnlyInAWait :
    (inCheck .kRun 1#16 1#8 false).ctrl ≠ .wait ∧ Turn.sequencer ≠ .tick := by decide

/-- The two clauses' premises, each at a boundary: REM = 0, released, and a step. -/
theorem witness_CheckTransition :
    ((inCheck .kRun 0#16 1#8 true).ctrl = .check ∧ (inCheck .kRun 0#16 1#8 true).rem = 0#16) ∧
    ((inCheck .kHome 0x8000#16 0#8 true).kind = .kHome ∧
      (inCheck .kHome 0x8000#16 0#8 true).hs = true) ∧
    ((inCheck .kHome 0x7FFF#16 0#8 false).rem ≠ 0#16 ∧
      (inCheck .kHome 0x7FFF#16 0#8 false).hs = false) := by decide

theorem witness_RemMovesOneTowardZero :
    (∃ s', takeTurn .sequencer (inCheck .kRun 0x8000#16 0#8 false) = .next s' ∧
      s'.ctrl ≠ .idle) ∧
    (∃ s', takeTurn .sequencer (inCheck .kRun 0#16 0#8 false) = .next s' ∧ s'.ctrl = .idle) :=
  ⟨⟨_, rfl, by decide⟩, ⟨_, rfl, rfl⟩⟩

/-- RUN 1, 1: a step, its tick, and the CHECK that ends it. -/
theorem witness_RunTraceAndFinalState :
    wellFormed (.run 1 1) = true ∧ ∃ s1 u, exec (.run 1 1) State.reset = .next s1 ∧
      BusyRun s1 [.sequencer, .tick, .sequencer, .sequencer] u ∧ u.ctrl = .idle :=
  ⟨by decide, _, _, rfl,
    .turn (by decide) (by decide) rfl (.turn (by decide) (by decide) rfl
      (.turn (by decide) (by decide) rfl (.turn (by decide) (by decide) rfl (.none _)))), rfl⟩

theorem witness_UnpacedRunCompletes :
    wellFormed (.run (-32768) 0) = true ∧ (∃ s1, exec (.run 1 0) State.reset = .next s1) ∧
      Turn.reset ∉ [Turn.tick, .sequencer] ∧
      [Turn.tick, .sequencer].count .sequencer = (1 : Int).natAbs :=
  ⟨by decide, ⟨_, rfl⟩, by decide, by decide⟩

/-- A HOME of the least count whose switch is released after acceptance, and a HOME of count 0. -/
theorem witness_HomeAlreadyReleasedDoesNothing :
    ((ready 0x048000FF#32).ctrl = .idle ∧ (ready 0x048000FF#32).offered = 0x048000FF#32 :: [] ∧
      decode 0x048000FF#32 = .ok (.home (-32768) 255) ∧
      ∃ s1 s2, takeTurn .sequencer (ready 0x048000FF#32) = .next s1 ∧
        EnvironmentRun s1 [.tick, .sensor true] s2 ∧ s2.hs = true) ∧
    (decode 0x04000005#32 = .ok (.home 0 5) ∧
      ∃ s1, takeTurn .sequencer (ready 0x04000005#32) = .next s1 ∧ EnvironmentRun s1 [] s1) :=
  ⟨⟨rfl, rfl, by decide, _, _, rfl, ⟨by decide, rfl⟩, rfl⟩, by decide, _, rfl, by decide, rfl⟩

/-- HOME 1, 0 with HS = 0 at its first CHECK. -/
theorem witness_BoundedHomeIsARun :
    wellFormed (.home 1 0) = true ∧ ∃ sh sr u, exec (.home 1 0) State.reset = .next sh ∧
      exec (.run 1 0) State.reset = .next sr ∧ BusyRun sh [.sequencer] u ∧
      (∀ (before after : List Turn) (v : State), [Turn.sequencer] = before ++ .sequencer :: after →
        runTurns before sh = .next v → v.ctrl = .check → v.rem ≠ 0#16 → v.hs = false) := by
  refine ⟨by decide, _, _, _, rfl, rfl, .turn (by decide) (by decide) rfl (.none _), ?_⟩
  intro before after v h hv _ _
  cases before with
  | nil => cases hv; rfl
  | cons t ts => simp at h

/-- HOME 2, 0 whose sensor is released after the first step. -/
theorem witness_HomeEarlyExitCounts :
    wellFormed (.home 2 0) = true ∧ ∃ sh u v, exec (.home 2 0) State.reset = .next sh ∧
      BusyRun sh [.sequencer, .sensor true] u ∧ u.ctrl = .check ∧ u.rem ≠ 0#16 ∧ u.hs = true ∧
      2 = countTaken (fun x => x.ctrl == .check) [.sequencer, .sensor true] sh + 1 ∧
      takeTurn .sequencer u = .next v :=
  ⟨by decide, _, _, _, rfl,
    .turn (by decide) (by decide) rfl (.turn (by decide) (by decide) rfl (.none _)),
    rfl, by decide, rfl, rfl, rfl⟩

theorem witness_SensorIsReadOnlyByHomeChecks :
    ¬ ((inCheck .kRun 1#16 0#8 true).ctrl = .check ∧ (inCheck .kRun 1#16 0#8 true).kind = .kHome ∧
        (inCheck .kRun 1#16 0#8 true).rem ≠ 0#16) ∧
      ∀ l, Turn.sequencer ≠ .sensor l := ⟨by decide, fun l => by cases l <;> decide⟩

/-- One step forward, then RUN -3, 0 moves one entry back. -/
theorem witness_ReversalCostsTwoHalfSteps :
    ((1 : Int) = 1 ∨ (1 : Int) = -1) ∧ 1 ≤ 1 ∧ wellFormed (.run (-1 * ((1 : Nat) + 2)) 0) = true ∧
      (adv 1 State.reset).phase = romRead (cursorPlus (adv 1 State.reset).cursor (-1)) ∧
      ∃ s1 u, exec (.run (-1 * ((1 : Nat) + 2)) 0) (adv 1 State.reset) = .next s1 ∧
        BusyRun s1 [.sequencer, .sequencer, .sequencer, .sequencer] u ∧ u.ctrl = .idle :=
  ⟨.inl rfl, le_rfl, by decide, by decide, _, _, rfl,
    .turn (by decide) (by decide) rfl (.turn (by decide) (by decide) rfl
      (.turn (by decide) (by decide) rfl (.turn (by decide) (by decide) rfl (.none _)))), rfl⟩

theorem witness_WordsAreTakenOnlyWhenReady :
    (∃ s', takeTurn .sequencer (ready 0x03000400#32) = .next s' ∧
      s'.trace = (ready 0x03000400#32).trace ++ [.cmdAccepted 0x03000400#32]) ∧
    (inWait .kRun 1#8 true).ctrl ≠ .idle := ⟨⟨_, rfl, rfl⟩, by decide⟩

theorem witness_KindAndTpsAreWrittenOnlyOnAcceptance :
    ∃ s', takeTurn .sequencer (ready 0x03000402#32) = .next s' ∧
      (s'.kind ≠ (ready 0x03000402#32).kind ∨ s'.tps ≠ (ready 0x03000402#32).tps) ∧
      s'.tps ≠ (ready 0x03000402#32).tps := ⟨_, rfl, .inl (by decide), by decide⟩

theorem witness_ErrIsStickyAndSteersNothing :
    (∃ s', takeTurn .sequencer (ready 0x00000000#32) = .next s' ∧
      (ready 0x00000000#32).err = false ∧ s'.err = true) ∧
    (∃ s', takeTurn .sequencer { ready 0x01000100#32 with err := true } = .next s' ∧
      Turn.sequencer ≠ .reset) := ⟨⟨_, rfl, rfl, rfl⟩, ⟨_, rfl, by decide⟩⟩

theorem witness_ResetSetsEveryRegister :
    (∃ s', takeTurn .reset (inWait .kRun 1#8 true) = .next s') ∧
      State.reset = State.powerUp false false := ⟨⟨_, rfl⟩, rfl⟩

/-- ADVANCE 0 and then ADVANCE 1 after RESET, and the commands that step right after RESET. -/
theorem witness_FirstStepAfterResetWritesEntryZero :
    (∃ s1 u v, takeTurn .reset (inCheck .kRun 5#16 1#8 false) = .next s1 ∧
      runTurns [.offer 0x01000000#32, .sequencer, .offer 0x01000100#32] s1 = .next u ∧
      .reset ∉ [Turn.offer 0x01000000#32, .sequencer, .offer 0x01000100#32] ∧
      u.trace = s1.trace ++ [.cmdAccepted 0x01000000#32, .cmdDone] ∧
      [Event.cmdAccepted 0x01000000#32, .cmdDone].countP isPhaseWrite = 0 ∧
      takeTurn .sequencer u = .next v ∧
      v.trace = u.trace ++ [.cmdAccepted 0x01000100#32, .phaseWrite 0x1#4, .cmdDone]) ∧
    (-1 : Int) ≠ 0 ∧ wellFormed (.run (-32768) 255) = true ∧ wellFormed (.home 32767 0) = true ∧
      (inCheck .kRun 5#16 1#8 false).hs = false :=
  ⟨⟨_, _, _, rfl, rfl, by decide, rfl, by decide, rfl, rfl⟩, by decide, by decide, by decide, rfl⟩

theorem witness_EndedRunKeepsItsObservation :
    runEnded { State.reset with schedule := [.tick] } = true ∧
      nextTurn { State.reset with schedule := [.tick] } ≠ .reset := by decide

theorem witness_StepKeepsRegistersInvariant :
    RegistersInv (inCheck .kRun 2#16 1#8 false) ∧
      ∃ s', step (inCheck .kRun 2#16 1#8 false) = .next s' ∧ s'.ctrl = .wait :=
  ⟨⟨by decide, by decide, by decide, by decide⟩, _, rfl, rfl⟩

theorem witness_StepKeepsTraceInvariant :
    TraceInv { inCheck .kRun 2#16 1#8 false with trace := [.reset, .cmdAccepted 0x03000201#32] } ∧
      ∃ s', step { inCheck .kRun 2#16 1#8 false with
        trace := [.reset, .cmdAccepted 0x03000201#32] } = .next s' ∧ s'.phase = 0x1#4 :=
  ⟨⟨by decide, by decide, by decide, by decide⟩, _, rfl, rfl⟩

/-- An execution that waits for one tick, takes it, and then gets ticks for ever. -/
def oneTickStates : Nat → State
  | 0 => inWait .kWait 1#8 false
  | 1 => inWait .kWait 1#8 true
  | 2 => { State.reset with tps := 1#8, trace := [.reset, .tickConsumed, .cmdDone] }
  | _ => { State.reset with tps := 1#8, tf := true, trace := [.reset, .tickConsumed, .cmdDone] }

/-- Its turns. -/
def oneTickTurns : Nat → Turn
  | 1 => .sequencer
  | _ => .tick

theorem witness_EveryCommandCompletes :
    Execution oneTickStates oneTickTurns ∧ TickSourceLive oneTickStates oneTickTurns ∧
      SequencerFair oneTickStates oneTickTurns ∧ (oneTickStates 0).ctrl ≠ .idle ∧
      ∀ m, 0 ≤ m → oneTickTurns m ≠ .reset := by
  have later : ∀ n, oneTickStates (n + 3) =
      { State.reset with tps := 1#8, tf := true, trace := [.reset, .tickConsumed, .cmdDone] } :=
    fun _ => rfl
  refine ⟨fun n => ?_, fun n _ => ⟨n + 2, by omega, rfl⟩, fun n h => ?_, by decide, fun m _ => ?_⟩
  · match n with
    | 0 => rfl
    | 1 => rfl
    | 2 => rfl
    | _ + 3 => rfl
  · have h3 := h (n + 3) (by omega)
    rw [later n] at h3
    exact absurd h3 (by decide)
  · match m with
    | 0 => decide
    | 1 => decide
    | _ + 2 => exact fun h => by cases h

end Sys2Proof.Tests
end

/-! PROOF. The step and the schedule (00_scope.md R9; log entry 3): a step is the turn at the head of
the schedule, and no turn reads the schedule, so steps along it are its turns. -/

namespace Sys2Proof.Machine

/-! ## A step is a turn -/

theorem step_of_schedule_cons {s : State} {t : Turn} {ts : List Turn} (h : s.schedule = t :: ts) :
    step s = takeTurn t { s with schedule := ts } := by
  simp [step, nextTurn, dropTurn, h]

theorem step_of_schedule_nil {s : State} (h : s.schedule = []) :
    step s = takeTurn .sequencer s := by
  have hdrop : dropTurn s = s := by cases s; cases h; rfl
  simp [step, nextTurn, hdrop, h]

/-- Settles O10: the two cases of the schedule. -/
theorem stepTakesTheScheduledTurn : Obligations.StepTakesTheScheduledTurn :=
  ⟨fun _ _ _ => step_of_schedule_cons, fun _ => step_of_schedule_nil⟩

/-! ## The Sequencer's turn by CTRL, and CHECK by REM and the sensor -/

theorem sequencerTurn_of_word {s : State} {w : Word} {rest : List Word} (idle : s.ctrl = .idle)
    (port : s.offered = w :: rest) : sequencerTurn s = acceptWord w s := by
  simp [sequencerTurn, cmdWord, idle, port]

theorem sequencerTurn_of_no_word {s : State} (idle : s.ctrl = .idle) (port : s.offered = []) :
    sequencerTurn s = .next s := by
  simp [sequencerTurn, cmdWord, idle, port]

theorem sequencerTurn_of_check {s : State} (here : s.ctrl = .check) :
    sequencerTurn s = .next (checkTurn s) := by
  simp [sequencerTurn, here]

theorem sequencerTurn_of_wait {s : State} (here : s.ctrl = .wait) :
    sequencerTurn s = .next (waitTurn s) := by
  simp [sequencerTurn, here]

theorem checkTurn_of_ends {s : State}
    (ends : s.rem = 0#16 ∨ (s.kind = .kHome ∧ s.hs = true)) : checkTurn s = completeCommand s := by
  rcases ends with hr | ⟨hk, hh⟩
  · simp [checkTurn, hr]
  · simp [checkTurn, hk, hh, sensorRead, Config.hsReleased]

theorem checkTurn_of_goesOn {s : State} (more : s.rem ≠ 0#16)
    (goesOn : s.kind = .kHome → s.hs = false) : checkTurn s = stepAction s := by
  by_cases hk : s.kind = .kHome
  · simp [checkTurn, more, sensorRead, Config.hsReleased, goesOn hk]
  · simp [checkTurn, more, hk]

/-! ## No turn reads the schedule

Each operation, from the commands up to the turn, commutes with a change of the schedule. -/

/-- The same block with other turns to come. -/
def State.withSchedule (ts : List Turn) (s : State) : State := { s with schedule := ts }

@[simp] theorem State.withSchedule_ctrl (ts : List Turn) (s : State) :
    (s.withSchedule ts).ctrl = s.ctrl := rfl
@[simp] theorem State.withSchedule_kind (ts : List Turn) (s : State) :
    (s.withSchedule ts).kind = s.kind := rfl
@[simp] theorem State.withSchedule_wcnt (ts : List Turn) (s : State) :
    (s.withSchedule ts).wcnt = s.wcnt := rfl
@[simp] theorem State.withSchedule_tf (ts : List Turn) (s : State) :
    (s.withSchedule ts).tf = s.tf := rfl
@[simp] theorem State.withSchedule_offered (ts : List Turn) (s : State) :
    (s.withSchedule ts).offered = s.offered := rfl

theorem exec_withSchedule (i : Instr) (s : State) (ts : List Turn) :
    exec i (s.withSchedule ts) = onNext (State.withSchedule ts) (exec i s) := by
  cases i with
  | advance x =>
    simp only [exec, execAdvance_eq]
    split_ifs <;> rfl
  | wait n =>
    simp only [exec, execWait]
    split_ifs <;> rfl
  | run c t => rfl
  | home c t => rfl

theorem acceptWord_withSchedule (w : Word) (s : State) (ts : List Turn) :
    acceptWord w (s.withSchedule ts) = onNext (State.withSchedule ts) (acceptWord w s) := by
  unfold acceptWord
  cases decode w with
  | error r => rfl
  | ok i => exact exec_withSchedule i ((consumeWord s).emit (.cmdAccepted w)) ts

theorem stepAction_withSchedule (s : State) (ts : List Turn) :
    stepAction (s.withSchedule ts) = (stepAction s).withSchedule ts := by
  rw [stepAction_eq, stepAction_eq]
  rfl

theorem checkTurn_withSchedule (s : State) (ts : List Turn) :
    checkTurn (s.withSchedule ts) = (checkTurn s).withSchedule ts := by
  rcases checkTurn_cases s with ⟨ends, e⟩ | ⟨more, goesOn, e⟩
  · rw [e, checkTurn_of_ends (s := s.withSchedule ts) (ends.imp_right And.right)]
    rfl
  · rw [e, checkTurn_of_goesOn (s := s.withSchedule ts) more goesOn, stepAction_withSchedule]

theorem endWait_withSchedule (s : State) (ts : List Turn) :
    endWait (s.withSchedule ts) = (endWait s).withSchedule ts := by
  cases hk : s.kind <;> simp only [endWait, State.withSchedule_kind, hk] <;> rfl

theorem countTick_withSchedule (s : State) (ts : List Turn) :
    countTick (s.withSchedule ts) = (countTick s).withSchedule ts := by
  by_cases hw : s.wcnt - 1#8 = 0#8
  · simp only [countTick, State.withSchedule_wcnt, hw, if_true]
    exact endWait_withSchedule { s with wcnt := 0#8 } ts
  · simp only [countTick, State.withSchedule_wcnt, hw, if_false]
    rfl

theorem waitTurn_withSchedule (s : State) (ts : List Turn) :
    waitTurn (s.withSchedule ts) = (waitTurn s).withSchedule ts := by
  cases hf : s.tf with
  | false => simp [waitTurn, tickTake_of_clear, hf]
  | true =>
    simp only [waitTurn, tickTake_of_set, State.withSchedule_tf, hf]
    exact countTick_withSchedule ({ s with tf := false }.emit .tickConsumed) ts

theorem sequencerTurn_withSchedule (s : State) (ts : List Turn) :
    sequencerTurn (s.withSchedule ts) = onNext (State.withSchedule ts) (sequencerTurn s) := by
  cases hc : s.ctrl with
  | idle =>
    cases ho : s.offered with
    | nil => simp [sequencerTurn_of_no_word, hc, ho, onNext]
    | cons w rest =>
      rw [sequencerTurn_of_word hc ho, sequencerTurn_of_word (s := s.withSchedule ts) hc ho,
        acceptWord_withSchedule]
  | check => simp [sequencerTurn_of_check, hc, onNext, checkTurn_withSchedule]
  | wait => simp [sequencerTurn_of_wait, hc, onNext, waitTurn_withSchedule]

/-- The schedule belongs to the model: no agent reads or writes it (log entry 3). -/
theorem takeTurn_withSchedule (t : Turn) (s : State) (ts : List Turn) :
    takeTurn t (s.withSchedule ts) = onNext (State.withSchedule ts) (takeTurn t s) := by
  cases t with
  | sequencer => exact sequencerTurn_withSchedule s ts
  | tick => rfl
  | sensor level => rfl
  | offer w => rfl
  | reset => rfl

/-! ## Steps along a schedule -/

theorem core_run_succ {s s' : State} (h : step s = .next s') (k : Nat) :
    core.run (k + 1) s = core.run k s' := by
  have hcore : core.step s = .next s' := h
  simp [Host.Core.run, hcore]

theorem runTurns_cons {t : Turn} {s s' : State} (h : takeTurn t s = .next s') (ts : List Turn) :
    runTurns (t :: ts) s = runTurns ts s' := by
  simp [runTurns, h]

/-- Settles O11, by induction on the turns: the head of the schedule is the turn that the step takes,
and the turns after it run from the state it leaves. -/
theorem stepsAlongAScheduleAreItsTurns : Obligations.StepsAlongAScheduleAreItsTurns := by
  intro ts rest s
  induction ts generalizing s with
  | nil => rfl
  | cons t ts ih =>
    obtain ⟨s', taken, -⟩ := takeTurn_answers t s
    have stepped : step (s.withSchedule (t :: ts ++ rest)) =
        .next (s'.withSchedule (ts ++ rest)) := by
      rw [step_of_schedule_cons (t := t) (ts := ts ++ rest) rfl]
      exact (takeTurn_withSchedule t s (ts ++ rest)).trans (by rw [taken]; rfl)
    rw [runTurns_cons taken]
    exact (core_run_succ stepped ts.length).trans (ih s')

end Sys2Proof.Machine

/-! PROOF. The trace and its reader (00_scope.md R11, 20_memory.md R61, R62): how the three readings of a
trace go on over the events a turn adds, and that every turn keeps their agreement with the registers. -/

namespace Sys2Proof.Machine

/-! ## Reading on -/

theorem viewTrace_append (es fs : List Event) :
    viewTrace (es ++ fs) = fs.foldl viewEvent (viewTrace es) := by
  simp [viewTrace]

theorem commandOpen_cons (isOpen : Bool) (e : Event) (es : List Event) :
    commandOpen isOpen (e :: es) = (commandOpen isOpen [e]).bind (commandOpen · es) := by
  cases e <;> cases isOpen <;> rfl

theorem commandOpen_append (isOpen : Bool) (es fs : List Event) :
    commandOpen isOpen (es ++ fs) = (commandOpen isOpen es).bind (commandOpen · fs) := by
  induction es generalizing isOpen with
  | nil => rfl
  | cons e es ih =>
    rw [List.cons_append, commandOpen_cons, commandOpen_cons isOpen e es, Option.bind_assoc]
    simp only [ih]

/-- Writes after an event count from the lines the reader sees after it (R99). -/
theorem writesChangeOneBit_cons (v : TraceView) (e : Event) (es : List Event) :
    writesChangeOneBit v.phase (e :: es) =
      (writesChangeOneBit v.phase [e] && writesChangeOneBit (viewEvent v e).phase es) := by
  cases e <;> simp [writesChangeOneBit, viewEvent]

theorem writesChangeOneBit_append (v : TraceView) (es fs : List Event) :
    writesChangeOneBit v.phase (es ++ fs) =
      (writesChangeOneBit v.phase es && writesChangeOneBit (es.foldl viewEvent v).phase fs) := by
  induction es generalizing v with
  | nil => rfl
  | cons e es ih =>
    rw [List.cons_append, writesChangeOneBit_cons, ih, writesChangeOneBit_cons v e es,
      Bool.and_assoc, List.foldl_cons]

/-! ## The invariant -/

/-- The events a turn adds keep the invariant if they lead a reader from the registers before the turn
to the registers after it. -/
theorem TraceInv.extend {s s' : State} {es : List Event} (inv : TraceInv s)
    (adds : s'.trace = s.trace ++ es)
    (tells : es.foldl viewEvent { phase := s.phase, err := s.err, busy := busy s } =
      { phase := s'.phase, err := s'.err, busy := busy s' })
    (serial : commandOpen (busy s) es = some (busy s'))
    (oneBit : writesChangeOneBit s.phase es = true)
    (phaseAt : phaseBesideCursor s' = true) : TraceInv s' where
  tells := by rw [adds, viewTrace_append, inv.tells, tells]
  serial := by rw [adds, commandOpen_append, inv.serial, Option.bind_some, serial]
  oneBit := by
    have whole := writesChangeOneBit_append { phase := 0#4, err := false, busy := false } s.trace es
    have told : (s.trace.foldl viewEvent { phase := 0#4, err := false, busy := false }).phase =
        s.phase := congrArg TraceView.phase inv.tells
    rw [adds, whole, inv.oneBit, told, oneBit, Bool.and_self]
  phaseAt := phaseAt

/-- Every effect of a turn keeps the invariant of the trace. -/
theorem TurnEffect.keeps_traceInv {s s' : State} {t : Turn} (effect : TurnEffect s t s')
    (inv : TraceInv s) : TraceInv s' := by
  have differs := next_write_differs inv.phaseAt
  cases effect with
  | hold => exact inv
  | tick | sensor | offer => exact ⟨inv.tells, inv.serial, inv.oneBit, inv.phaseAt⟩
  | reset => exact inv.extend rfl rfl rfl rfl rfl
  | reject _ _ _ idle =>
    exact inv.extend rfl rfl (by simp [busy, idle, commandOpen]) rfl inv.phaseAt
  | advanceNone _ _ idle | waitNone _ _ idle =>
    exact inv.extend rfl (by simp [busy, idle, viewEvent])
      (by simp [busy, idle, commandOpen]) rfl inv.phaseAt
  | advance _ _ _ _ idle _ _ _ unit =>
    exact inv.extend rfl (by simp [busy, idle, viewEvent])
      (by simp [busy, idle, commandOpen]) (by simp [writesChangeOneBit, differs])
      (phaseBesideCursor_of_step unit rfl rfl)
  | waitStart _ _ _ idle | runStart _ _ _ _ idle | homeStart _ _ _ _ idle =>
    exact inv.extend rfl rfl (by simp [busy, idle, commandOpen]) rfl inv.phaseAt
  | finish here =>
    exact inv.extend rfl rfl (by simp [busy, here, commandOpen]) rfl inv.phaseAt
  | step _ here _ _ _ unit =>
    have stillBusy : (if s.tps = 0#8 then Ctrl.check else .wait) ≠ .idle := by split <;> decide
    exact inv.extend rfl (by simp [busy, here, stillBusy, viewEvent])
      (by simp [busy, here, stillBusy, commandOpen]) (by simp [writesChangeOneBit, differs])
      (phaseBesideCursor_of_step unit rfl rfl)
  | tickMore here | tickDone here | tickCheck here =>
    exact inv.extend rfl (by simp [busy, here, viewEvent]) (by simp [busy, here, commandOpen]) rfl
      inv.phaseAt

theorem takeTurn_keeps_traceInv {t : Turn} {s s' : State} (inv : TraceInv s)
    (taken : takeTurn t s = .next s') : TraceInv s' :=
  (takeTurn_effect taken).keeps_traceInv inv

theorem dropTurn_keeps_traceInv {s : State} (inv : TraceInv s) : TraceInv (dropTurn s) :=
  ⟨inv.tells, inv.serial, inv.oneBit, inv.phaseAt⟩

/-- Settles O54: a step is a turn taken once the schedule has dropped it, and every turn keeps the
invariant. -/
theorem stepKeepsTraceInvariant : Obligations.StepKeepsTraceInvariant :=
  fun _ _ inv stepped => takeTurn_keeps_traceInv (dropTurn_keeps_traceInv inv) stepped

end Sys2Proof.Machine

/-! PROOF. The effects of a turn are its answers: `takeTurn_effect` read backwards. What an effect does not
mention, its turn does not read, so the same constructor serves a state in which that field differs. -/

namespace Sys2Proof.Machine

theorem acceptWord_of_legal {s : State} {w : Word} {rest : List Word} {i : Instr}
    (port : s.offered = w :: rest) (legal : decode w = .ok i) :
    acceptWord w s = exec i (accepted s w rest) := by
  simp [acceptWord, legal, accepted, consumeWord, State.emit, port]

theorem acceptWord_of_illegal {s : State} {w : Word} {rest : List Word} {r : DecodeReject}
    (port : s.offered = w :: rest) (illegal : decode w = .error r) :
    acceptWord w s = .next { s with offered := rest, err := true,
                                    trace := s.trace ++ [.cmdRejected w] } := by
  simp [acceptWord, illegal, raiseIllegalCommand, consumeWord, State.emit, port]

theorem takeTurn_sequencer_of_legal {s : State} {w : Word} {rest : List Word} {i : Instr}
    (idle : s.ctrl = .idle) (port : s.offered = w :: rest) (legal : decode w = .ok i) :
    takeTurn .sequencer s = exec i (accepted s w rest) :=
  (sequencerTurn_of_word idle port).trans (acceptWord_of_legal port legal)

/-- Each effect is what its turn answers. -/
theorem TurnEffect.takeTurn_eq {s s' : State} {t : Turn} (effect : TurnEffect s t s') :
    takeTurn t s = .next s' := by
  cases effect with
  | hold disabled =>
    rcases disabled with ⟨idle, port⟩ | ⟨here, flag⟩
    · exact sequencerTurn_of_no_word idle port
    · exact (sequencerTurn_of_wait here).trans (by simp [waitTurn, tickTake_of_clear flag])
  | reject _ _ _ idle port illegal =>
    exact (sequencerTurn_of_word idle port).trans (acceptWord_of_illegal port illegal)
  | advanceNone _ _ idle port legal =>
    rw [takeTurn_sequencer_of_legal idle port legal, exec, execAdvance_eq]
    simp [State.emit]
  | advance _ _ x d idle port legal dir unit =>
    have moves : x ≠ 0 := fun h => by rw [dir, (sign_eq_zero_iff x).2 h] at unit; omega
    rw [takeTurn_sequencer_of_legal idle port legal, exec, execAdvance_eq, if_neg moves, ← dir]
    simp [State.emit, adv, portWrite]
  | waitNone _ _ idle port legal =>
    rw [takeTurn_sequencer_of_legal idle port legal]
    simp [exec, execWait, State.emit]
  | waitStart _ _ _ idle port legal some =>
    rw [takeTurn_sequencer_of_legal idle port legal]
    exact if_neg some
  | runStart _ _ _ _ idle port legal | homeStart _ _ _ _ idle port legal =>
    exact takeTurn_sequencer_of_legal idle port legal
  | finish here ends =>
    refine (sequencerTurn_of_check here).trans ?_
    rw [checkTurn_of_ends (ends.imp_right And.right)]
    rfl
  | step _ here more goesOn dir =>
    refine (sequencerTurn_of_check here).trans ?_
    rw [checkTurn_of_goesOn more goesOn, stepAction_eq, dir]
  | tickMore here flag more =>
    exact (sequencerTurn_of_wait here).trans (by simpa [flag, more] using waitTurn_cases s)
  | tickDone here flag last owner | tickCheck here flag last owner =>
    exact (sequencerTurn_of_wait here).trans (by simpa [flag, last, owner] using waitTurn_cases s)
  | tick | sensor | offer | reset => rfl

end Sys2Proof.Machine

/-! PROOF. The state (10_state.md): who may change each register, flag and port, by cases on the effects of
a turn, and the invariant of the registers. -/

namespace Sys2Proof.Machine

/-! ## The invariants after reset, and the registers' invariant along steps -/

theorem phaseBesideCursor_powerUp (tf hs : Bool) :
    phaseBesideCursor (State.powerUp tf hs) = true := rfl

/-- In IDLE the invariant speaks of PHASE and CURSOR only. -/
theorem registersInv_of_idle {s : State} (idle : s.ctrl = .idle)
    (phaseAt : phaseBesideCursor s = true) : RegistersInv s :=
  ⟨by simp [idle], by simp [idle], by simp [idle], phaseAt⟩

/-- Settles O53: power-up is IDLE with PHASE and CURSOR 0. -/
theorem resetMeetsRegistersInvariant : Obligations.ResetMeetsRegistersInvariant :=
  have inv (tf hs : Bool) : RegistersInv (State.powerUp tf hs) :=
    registersInv_of_idle rfl (phaseBesideCursor_powerUp tf hs)
  ⟨inv false false, inv⟩

/-- Settles O55: the trace at power-up is the one event Reset, which tells the reset values. -/
theorem resetMeetsTraceInvariant : Obligations.ResetMeetsTraceInvariant :=
  have inv (tf hs : Bool) : TraceInv (State.powerUp tf hs) :=
    ⟨rfl, rfl, rfl, phaseBesideCursor_powerUp tf hs⟩
  ⟨inv false false, inv⟩

/-- A count that is not done stays within its bound and above 0 when it goes down by one. -/
theorem countDown_bounds {n : TicksWord} (positive : n ≠ 0#8) (more : n ≠ 1#8) :
    n - 1#8 ≠ 0#8 ∧ (n - 1#8).toNat ≤ n.toNat :=
  ⟨fun zero => more (by bv_omega), by bv_omega⟩

/-- Every effect of a turn keeps the invariant of the registers. -/
theorem TurnEffect.keeps_registersInv {s s' : State} {t : Turn} (effect : TurnEffect s t s')
    (inv : RegistersInv s) : RegistersInv s' := by
  cases effect with
  | hold => exact inv
  | tick | sensor | offer => exact ⟨inv.waitCounts, inv.checkKind, inv.pacedWait, inv.phaseAt⟩
  | reset => exact registersInv_of_idle rfl rfl
  | reject _ _ _ idle | advanceNone _ _ idle | waitNone _ _ idle =>
    exact registersInv_of_idle idle inv.phaseAt
  | advance _ _ _ _ idle _ _ _ unit =>
    exact registersInv_of_idle idle (phaseBesideCursor_of_step unit rfl rfl)
  | finish | tickDone => exact registersInv_of_idle rfl inv.phaseAt
  | waitStart _ _ _ _ _ _ _ fits =>
    exact ⟨fun _ => fits, nofun, fun _ owner => absurd rfl owner, inv.phaseAt⟩
  | runStart | homeStart => exact ⟨nofun, fun _ => nofun, nofun, inv.phaseAt⟩
  | tickCheck _ _ _ owner => exact ⟨nofun, fun _ => owner, nofun, inv.phaseAt⟩
  | step _ here _ _ _ unit =>
    have paced : (if s.tps = 0#8 then Ctrl.check else .wait) = .wait → s.tps ≠ 0#8 :=
      fun waits zero => by simp [zero] at waits
    exact ⟨fun waits => by simp [paced waits], fun _ => inv.checkKind here,
      fun waits _ => by simp [paced waits], phaseBesideCursor_of_step unit rfl rfl⟩
  | tickMore here _ more =>
    obtain ⟨positive, smaller⟩ := countDown_bounds (inv.waitCounts here) more
    exact ⟨fun _ => positive, inv.checkKind,
      fun _ owner => smaller.trans (inv.pacedWait here owner), inv.phaseAt⟩

theorem dropTurn_keeps_registersInv {s : State} (inv : RegistersInv s) :
    RegistersInv (dropTurn s) :=
  ⟨inv.waitCounts, inv.checkKind, inv.pacedWait, inv.phaseAt⟩

/-- Settles O52: a step is a turn taken once the schedule has dropped it, and every effect of a turn
keeps the invariant. -/
theorem stepKeepsRegistersInvariant : Obligations.StepKeepsRegistersInvariant :=
  fun _ _ inv stepped =>
    (takeTurn_effect stepped).keeps_registersInv (dropTurn_keeps_registersInv inv)

/-! ## CURSOR and PHASE -/

theorem cursorPlus_unit {d : Int} (unit : d = 1 ∨ d = -1) (c : CursorWord) :
    cursorPlus c d = c + 1#3 ∨ cursorPlus c d = c - 1#3 := by
  rcases unit with rfl | rfl
  · exact .inl (cursorPlus_one c)
  · exact .inr (cursorPlus_neg_one c)

/-- Settles O21: the two effects that take a step write StepTable[CURSOR]; every other effect leaves both
registers and adds no write. -/
theorem onlyStepsMoveCursorAndPhase : Obligations.OnlyStepsMoveCursorAndPhase := by
  intro s s' t notReset taken
  cases takeTurn_effect taken with
  | reset => exact absurd rfl notReset
  | hold | tick | sensor | offer => exact ⟨[], by simp, .inl ⟨rfl, rfl, rfl⟩⟩
  | advance _ _ _ _ _ _ _ _ unit | step _ _ _ _ _ unit =>
    exact ⟨_, rfl, .inr ⟨rfl, rfl, cursorPlus_unit unit s.cursor, rfl, by simp⟩⟩
  | reject | advanceNone | waitNone | waitStart | runStart | homeStart | finish | tickMore
  | tickDone | tickCheck => exact ⟨_, rfl, .inl ⟨rfl, rfl, rfl⟩⟩

/-! ## TF -/

/-- Settles O31: the three TICK effects clear TF and record the tick, a tick sets it, and every other
effect leaves it. -/
theorem tickFlagOwners : Obligations.TickFlagOwners := by
  intro s s' t taken
  cases takeTurn_effect taken with
  | tick => exact ⟨fun _ => rfl, fun _ _ => rfl, nofun, nofun⟩
  | tickMore here | tickDone here | tickCheck here =>
    exact ⟨nofun, nofun, fun _ _ => ⟨rfl, here, by simp⟩, nofun⟩
  | _ => exact ⟨nofun, by simp +contextual, by simp +contextual, fun _ => rfl⟩

/-- Outside a wait no transition reads or writes TF (R31, R126). -/
theorem TurnEffect.withTickFlag {s s' : State} {t : Turn} (effect : TurnEffect s t s')
    (flag : Bool) (notWait : s.ctrl ≠ .wait) (notTick : t ≠ .tick) :
    TurnEffect { s with tf := flag } t { s' with tf := flag } := by
  cases effect with
  | hold disabled => exact .hold (.inl (disabled.resolve_right fun h => notWait h.1))
  | reject _ _ _ idle port illegal => exact .reject _ _ _ idle port illegal
  | advanceNone _ _ idle port legal => exact .advanceNone _ _ idle port legal
  | advance _ _ _ _ idle port legal dir unit => exact .advance _ _ _ _ idle port legal dir unit
  | waitNone _ _ idle port legal => exact .waitNone _ _ idle port legal
  | waitStart _ _ _ idle port legal some fits => exact .waitStart _ _ _ idle port legal some fits
  | runStart _ _ _ _ idle port legal => exact .runStart _ _ _ _ idle port legal
  | homeStart _ _ _ _ idle port legal => exact .homeStart _ _ _ _ idle port legal
  | finish here ends => exact .finish here ends
  | step _ here more goesOn dir unit => exact .step _ here more goesOn dir unit
  | tickMore here | tickDone here | tickCheck here => exact absurd here notWait
  | tick => exact absurd rfl notTick
  | sensor level => exact .sensor level
  | offer w => exact .offer w
  | reset => exact .reset

/-- Settles O32: outside a wait the effect of a turn is its effect for every value of TF. -/
theorem tickFlagIsReadOnlyInAWait : Obligations.TickFlagIsReadOnlyInAWait := by
  intro s t flag notWait notTick
  obtain ⟨s', taken, effect⟩ := takeTurn_answers t s
  rw [taken, (effect.withTickFlag flag notWait notTick).takeTurn_eq]
  rfl

/-! ## ERR -/

/-- No transition reads ERR (R30, R158). -/
theorem TurnEffect.withErr {s s' : State} {t : Turn} (effect : TurnEffect s t s') (flag : Bool) :
    ∃ after, TurnEffect { s with err := flag } t { s' with err := after } := by
  cases effect with
  | hold disabled => exact ⟨_, .hold disabled⟩
  | reject _ _ _ idle port illegal => exact ⟨_, .reject _ _ _ idle port illegal⟩
  | advanceNone _ _ idle port legal => exact ⟨_, .advanceNone _ _ idle port legal⟩
  | advance _ _ _ _ idle port legal dir unit =>
    exact ⟨_, .advance _ _ _ _ idle port legal dir unit⟩
  | waitNone _ _ idle port legal => exact ⟨_, .waitNone _ _ idle port legal⟩
  | waitStart _ _ _ idle port legal some fits =>
    exact ⟨_, .waitStart _ _ _ idle port legal some fits⟩
  | runStart _ _ _ _ idle port legal => exact ⟨_, .runStart _ _ _ _ idle port legal⟩
  | homeStart _ _ _ _ idle port legal => exact ⟨_, .homeStart _ _ _ _ idle port legal⟩
  | finish here ends => exact ⟨_, .finish here ends⟩
  | step _ here more goesOn dir unit => exact ⟨_, .step _ here more goesOn dir unit⟩
  | tickMore here flagSet more => exact ⟨_, .tickMore here flagSet more⟩
  | tickDone here flagSet last owner => exact ⟨_, .tickDone here flagSet last owner⟩
  | tickCheck here flagSet last owner => exact ⟨_, .tickCheck here flagSet last owner⟩
  | tick => exact ⟨_, .tick⟩
  | sensor level => exact ⟨_, .sensor level⟩
  | offer w => exact ⟨_, .offer w⟩
  | reset => exact ⟨_, .reset⟩

/-- What a turn does to ERR: RESET clears it, an illegal word sets it, and every other turn leaves it
(R30, R151, R180). -/
theorem TurnEffect.err_cases {s s' : State} {t : Turn} (effect : TurnEffect s t s') :
    t = .reset ∧ s'.err = false ∨
    (t = .sequencer ∧ s.ctrl = .idle ∧ s'.err = true ∧
      ∃ w r, s.offered = w :: s'.offered ∧ decode w = .error r) ∨
    s'.err = s.err := by
  cases effect with
  | reset => exact .inl ⟨rfl, rfl⟩
  | reject w _ r idle port illegal => exact .inr (.inl ⟨rfl, idle, rfl, w, r, port, illegal⟩)
  | _ => exact .inr (.inr rfl)

/-- Settles O46: its first clause by cases on what a turn does to ERR, its second because no effect
reads ERR. -/
theorem errIsStickyAndSteersNothing : Obligations.ErrIsStickyAndSteersNothing := by
  refine ⟨fun s s' t taken => ?_, fun s t flag => ?_⟩
  · rcases (takeTurn_effect taken).err_cases with
      ⟨isReset, cleared⟩ | ⟨isSeq, idle, sets, illegal⟩ | kept
    · exact ⟨fun h => absurd isReset h, by simp [cleared]⟩
    · exact ⟨fun _ _ => sets, fun _ _ => ⟨isSeq, idle, illegal⟩⟩
    · exact ⟨fun _ => kept.trans, by simp +contextual [kept]⟩
  · obtain ⟨s', taken, effect⟩ := takeTurn_answers t s
    obtain ⟨after, effect'⟩ := effect.withErr flag
    rw [taken, effect'.takeTurn_eq]
    rfl

/-! ## The command port -/

/-- The events say that `w` was taken from the port (R80). -/
def recordsWord (w : Word) (es : List Event) : Prop := .cmdAccepted w ∈ es ∨ .cmdRejected w ∈ es

/-- What a turn does to the port: the Sequencer in IDLE takes its word and records no other, or no word
is recorded and the offered words stay, with any new ones behind them (R70, R80, R184). -/
theorem TurnEffect.port_cases {s s' : State} {t : Turn} (effect : TurnEffect s t s') :
    ∃ es, s'.trace = s.trace ++ es ∧
      ((t = .sequencer ∧ s.ctrl = .idle ∧
          ∃ w, s.offered = w :: s'.offered ∧ ∀ v, recordsWord v es → v = w) ∨
        ((∀ v, ¬ recordsWord v es) ∧ ∃ more, s'.offered = s.offered ++ more)) := by
  cases effect with
  | reject w _ _ idle port | advanceNone w _ idle port | advance w _ _ _ idle port
  | waitNone w _ idle port | waitStart w _ _ idle port | runStart w _ _ _ idle port
  | homeStart w _ _ _ idle port =>
    exact ⟨_, rfl, .inl ⟨rfl, idle, w, port, by simp [recordsWord]⟩⟩
  | hold | tick | sensor =>
    exact ⟨[], by simp, .inr ⟨by simp [recordsWord], [], by simp⟩⟩
  | offer w => exact ⟨[], by simp, .inr ⟨by simp [recordsWord], [w], rfl⟩⟩
  | finish | step | tickMore | tickDone | tickCheck | reset =>
    exact ⟨_, rfl, .inr ⟨by simp [recordsWord], [], by simp⟩⟩

/-- Settles O44: the events of a turn are the ones it adds to the trace, so cases on what it does to the port
decide whether they record a word. -/
theorem wordsAreTakenOnlyWhenReady : Obligations.WordsAreTakenOnlyWhenReady := by
  intro s s' t taken
  obtain ⟨es, adds, ⟨isSeq, idle, w, port, only⟩ | ⟨silent, more⟩⟩ :=
    (takeTurn_effect taken).port_cases
  · refine ⟨fun fs v adds' recorded => ?_, fun notIdle => absurd idle notIdle⟩
    cases List.append_cancel_left (adds.symm.trans adds')
    exact ⟨isSeq, by simp [cmdReady, idle], only v recorded ▸ port⟩
  · refine ⟨fun fs v adds' recorded => ?_, fun _ => more⟩
    cases List.append_cancel_left (adds.symm.trans adds')
    exact absurd recorded (silent v)

/-! ## KIND and TPS -/

/-- Settles O45: the three effects that start a command with a KIND leave IDLE, RESET is named, and no
other effect writes either register. -/
theorem kindAndTpsAreWrittenOnlyOnAcceptance :
    Obligations.KindAndTpsAreWrittenOnlyOnAcceptance := by
  intro s s' t taken
  cases takeTurn_effect taken with
  | reset => exact ⟨fun _ => .inl rfl, fun _ => .inl rfl⟩
  | waitStart _ _ _ idle => exact ⟨fun _ => .inr ⟨rfl, idle, nofun⟩, fun h => absurd rfl h⟩
  | runStart _ _ _ _ idle | homeStart _ _ _ _ idle =>
    exact ⟨fun _ => .inr ⟨rfl, idle, nofun⟩, fun _ => .inr rfl⟩
  | _ => exact ⟨by simp, by simp⟩

/-! ## The environment's turns and STATUS -/

/-- Settles O13: each of the three turns is its one update. -/
theorem environmentTurnsChangeOnlyTheirInput : Obligations.EnvironmentTurnsChangeOnlyTheirInput :=
  fun _ => ⟨rfl, fun _ => rfl, fun _ => rfl⟩

/-- The fields of a STATUS word (R33), for every value of CURSOR, BUSY and ERR. -/
theorem statusWord_fields : ∀ (cursor : CursorWord) (isBusy err : Bool),
    let w : StatusWord := 0#3 ++ BitVec.ofBool err ++ BitVec.ofBool isBusy ++ cursor
    w.extractLsb 2 0 = cursor ∧ w.getLsbD 3 = isBusy ∧ w.getLsbD 4 = err ∧
      w.extractLsb 7 5 = 0#3 := by
  decide

theorem busy_iff (s : State) : busy s = true ↔ s.ctrl ≠ .idle := decide_eq_true_iff

theorem statusPort_powerUp : ∀ tf hs, statusPort (State.powerUp tf hs) = 0x00#8 := by decide

/-- Settles O49: the fields of the word are CURSOR, BUSY, ERR and 0, and BUSY is CTRL ≠ IDLE. -/
theorem statusPortLayout : Obligations.StatusPortLayout := by
  intro s
  obtain ⟨cursor, isBusy, err, zero⟩ := statusWord_fields s.cursor (busy s) s.err
  exact ⟨cursor, (Bool.eq_iff_iff.1 isBusy).trans (busy_iff s), err, zero, statusPort_powerUp⟩

end Sys2Proof.Machine

/-! PROOF. The tick flag as a memory of one tick (20_memory.md R53, R63, 41_waitticks.md R112): a turn
moves a tick from TF to the trace and loses or repeats none, and only a tick that finds TF = 0 adds one. -/

namespace Sys2Proof.Machine

/-- The ticks the block has kept: those consumed, and the one that waits in TF. -/
def ticksKept (s : State) : Nat := s.trace.count .tickConsumed + (if s.tf then 1 else 0)

theorem flagSettings_cons {t : Turn} {s s' : State} (h : takeTurn t s = .next s') (ts : List Turn) :
    flagSettings (t :: ts) s = (if t == .tick && !s.tf then 1 else 0) + flagSettings ts s' := by
  simp [flagSettings, h]

/-- A tick is kept only where it finds TF = 0; the TICK effects move it to the trace, and every other
effect leaves TF and records no tick. -/
theorem TurnEffect.ticksKept_eq {s s' : State} {t : Turn} (effect : TurnEffect s t s') :
    ticksKept s' = ticksKept s + (if t == .tick && !s.tf then 1 else 0) := by
  cases effect with
  | tick | reset => cases hf : s.tf <;> simp [ticksKept, hf]
  | tickMore _ flag | tickDone _ flag | tickCheck _ flag => simp [ticksKept, flag]
  | _ => simp [ticksKept]

theorem runTurns_ticksKept {ts : List Turn} {s u : State} (run : runTurns ts s = .next u) :
    ticksKept u = ticksKept s + flagSettings ts s := by
  induction ts generalizing s with
  | nil => cases run; rfl
  | cons t ts ih =>
    obtain ⟨s', taken, effect⟩ := takeTurn_answers t s
    rw [runTurns_cons taken] at run
    rw [ih run, effect.ticksKept_eq, flagSettings_cons taken, Nat.add_assoc]

/-- Every setting of TF is a tick of the TickSource (R31). -/
theorem flagSettings_le_count (ts : List Turn) (s : State) : flagSettings ts s ≤ ts.count .tick := by
  induction ts generalizing s with
  | nil => rfl
  | cons t ts ih =>
    obtain ⟨s', taken, -⟩ := takeTurn_answers t s
    have isTick : (if t == .tick && !s.tf then 1 else 0) ≤ if t == .tick then 1 else 0 := by
      cases t == .tick <;> cases s.tf <;> decide
    rw [flagSettings_cons taken, List.count_cons, Nat.add_comm]
    exact Nat.add_le_add (ih s') isTick

/-- Settles O29: the ticks kept grow by the settings of TF along a run, and each setting is a tick. -/
theorem consumedTicksAreTicksOfTheSource : Obligations.ConsumedTicksAreTicksOfTheSource := by
  intro ts s u run
  have balance : ticksKept u = ticksKept s + flagSettings ts s := runTurns_ticksKept run
  exact ⟨balance, balance.trans_le (Nat.add_le_add_left (flagSettings_le_count ts s) _)⟩

end Sys2Proof.Machine

/-! PROOF. Command words (30_encoding.md R71 to R80): `decode` by opcode, and that `encode` and `decode`
are inverse to each other between the well-formed commands and the legal words. -/

namespace Sys2Proof

/-! ## `decode` by its fields -/

theorem decode_of_advance {w : Word} (op : opField w = opAdvance) (zero : ticksField w = 0#8) :
    decode w = .ok (.advance (countOperand w)) := by
  rw [decode, if_pos op, if_pos zero]

theorem decode_of_wait {w : Word} (op : opField w = opWait) (zero : countField w = 0#16) :
    decode w = .ok (.wait (ticksOperand w)) := by
  rw [decode, op, if_neg (by decide), if_pos rfl, if_pos zero]

theorem decode_of_run {w : Word} (op : opField w = opRun) :
    decode w = .ok (.run (countOperand w) (ticksOperand w)) := by
  rw [decode, op, if_neg (by decide), if_neg (by decide), if_pos rfl]

theorem decode_of_home {w : Word} (op : opField w = opHome) :
    decode w = .ok (.home (countOperand w) (ticksOperand w)) := by
  rw [decode, op, if_neg (by decide), if_neg (by decide), if_neg (by decide), if_pos rfl]

/-- The command of a legal word, with what its word must hold (R72 to R76). -/
theorem decode_ok_cases {w : Word} {i : Instr} (legal : decode w = .ok i) :
    (opField w = opAdvance ∧ ticksField w = 0#8 ∧ i = .advance (countOperand w)) ∨
    (opField w = opWait ∧ countField w = 0#16 ∧ i = .wait (ticksOperand w)) ∨
    (opField w = opRun ∧ i = .run (countOperand w) (ticksOperand w)) ∨
    (opField w = opHome ∧ i = .home (countOperand w) (ticksOperand w)) := by
  rcases decode_cases w with ⟨op, zero, e⟩ | ⟨-, -, e⟩ | ⟨op, zero, e⟩ | ⟨-, -, e⟩ | ⟨op, e⟩ |
    ⟨op, e⟩ | ⟨-, -, -, -, e⟩ <;> rw [e] at legal <;> cases legal
  · exact .inl ⟨op, zero, rfl⟩
  · exact .inr (.inl ⟨op, zero, rfl⟩)
  · exact .inr (.inr (.inl ⟨op, rfl⟩))
  · exact .inr (.inr (.inr ⟨op, rfl⟩))

/-- The words without a command are the three items of R77. -/
theorem decode_error_iff (w : Word) :
    (∃ r, decode w = .error r) ↔
      (opField w ≠ opAdvance ∧ opField w ≠ opWait ∧ opField w ≠ opRun ∧ opField w ≠ opHome) ∨
      (opField w = opAdvance ∧ ticksField w ≠ 0#8) ∨
      (opField w = opWait ∧ countField w ≠ 0#16) := by
  constructor
  · rintro ⟨r, illegal⟩
    rcases decode_cases w with ⟨-, -, e⟩ | ⟨op, mbz, -⟩ | ⟨-, -, e⟩ | ⟨op, mbz, -⟩ | ⟨-, e⟩ |
      ⟨-, e⟩ | ⟨h1, h2, h3, h4, -⟩
    · simp [e] at illegal
    · exact .inr (.inl ⟨op, mbz⟩)
    · simp [e] at illegal
    · exact .inr (.inr ⟨op, mbz⟩)
    · simp [e] at illegal
    · simp [e] at illegal
    · exact .inl ⟨h1, h2, h3, h4⟩
  · intro item
    cases legal : decode w with
    | error r => exact ⟨r, rfl⟩
    | ok i =>
      rcases decode_ok_cases legal with ⟨op, zero, -⟩ | ⟨op, zero, -⟩ | ⟨op, -⟩ | ⟨op, -⟩
      · simp [op, zero, opAdvance, opWait] at item
      · simp [op, zero, opAdvance, opWait] at item
      · simp [op, opAdvance, opWait, opRun] at item
      · simp [op, opAdvance, opWait, opHome] at item

/-! ## Encoding and then decoding -/

theorem countOperand_of_countBits {w : Word} {c : Int} (field : countField w = countBits c)
    (range : countInRange c = true) : countOperand w = c := by
  rw [countOperand, field, toInt_countBits range]

theorem ticksOperand_of_ticksBits {w : Word} {t : Nat} (field : ticksField w = ticksBits t)
    (range : ticksInRange t = true) : ticksOperand w = t := by
  rw [ticksOperand, field, toNat_ticksBits range]

/-- Settles O1, by cases on the command: its word has its opcode and operands in the fields
(`Laws.EncodedFields`), and an operand in range is read back from its field. -/
theorem decodeOfEncodeIsTheCommand : Obligations.DecodeOfEncodeIsTheCommand := by
  intro i wf
  cases i with
  | advance d =>
    obtain ⟨op, cnt, tk⟩ := Laws.EncodedFields.advance d
    rw [decode_of_advance op tk, countOperand_of_countBits cnt wf]
  | wait n =>
    obtain ⟨op, cnt, tk⟩ := Laws.EncodedFields.wait n
    rw [decode_of_wait op cnt, ticksOperand_of_ticksBits tk wf]
  | run c t =>
    obtain ⟨op, cnt, tk⟩ := Laws.EncodedFields.run c t
    obtain ⟨hc, ht⟩ := Bool.and_eq_true_iff.1 wf
    rw [decode_of_run op, countOperand_of_countBits cnt hc, ticksOperand_of_ticksBits tk ht]
  | home c t =>
    obtain ⟨op, cnt, tk⟩ := Laws.EncodedFields.home c t
    obtain ⟨hc, ht⟩ := Bool.and_eq_true_iff.1 wf
    rw [decode_of_home op, countOperand_of_countBits cnt hc, ticksOperand_of_ticksBits tk ht]

/-! ## Decoding and then encoding -/

theorem assembleFields_eq_of_fields {w : Word} {op : OpField} {cnt : CountWord} {tk : TicksWord}
    (hop : opField w = op) (hcnt : countField w = cnt) (htk : ticksField w = tk) :
    assembleFields op cnt tk = w := by
  rw [← hop, ← hcnt, ← htk, assembleFields_fields]

theorem wellFormed_operands (w : Word) :
    (countInRange (countOperand w) && ticksInRange (ticksOperand w)) = true :=
  Bool.and_eq_true_iff.2 ⟨countInRange_countOperand w, ticksInRange_ticksOperand w⟩

/-- Settles O2, by cases on the legal words: the operands come from the fields, so they are in range and
go back to the same fields, and the field a command does not use is 0. -/
theorem decodedWordIsTheEncodedCommand : Obligations.DecodedWordIsTheEncodedCommand := by
  intro w i legal
  have hcnt := (countBits_countOperand w).symm
  have htk := (ticksBits_ticksOperand w).symm
  rcases decode_ok_cases legal with ⟨op, zero, rfl⟩ | ⟨op, zero, rfl⟩ | ⟨op, rfl⟩ | ⟨op, rfl⟩
  · exact ⟨countInRange_countOperand w, assembleFields_eq_of_fields op hcnt zero⟩
  · exact ⟨ticksInRange_ticksOperand w, assembleFields_eq_of_fields op zero htk⟩
  · exact ⟨wellFormed_operands w, assembleFields_eq_of_fields op hcnt htk⟩
  · exact ⟨wellFormed_operands w, assembleFields_eq_of_fields op hcnt htk⟩

/-! ## Illegal words -/

/-- Settles O3: the fields are the bit ranges R77 names, and accepting an illegal word is the effect
`TurnEffect.reject`. -/
theorem illegalWordsAreExactlyTheListedOnes : Obligations.IllegalWordsAreExactlyTheListedOnes :=
  ⟨decode_error_iff, fun w rest _ ⟨r, illegal⟩ idle port =>
    (Machine.TurnEffect.reject w rest r idle port illegal).takeTurn_eq⟩

/-! ## Counts of words (R78)

Encoding is a bijection from the well-formed commands of one kind to the legal words of that kind, so the
words number as many as the operands in range. -/

/-- The words of a kind of command are as many as its operands in range. -/
theorem card_words_of_kind {α : Type} {mk : α → Instr} (inj : mk.Injective) :
    Nat.card { w : Word // ∃ a, decode w = .ok (mk a) } =
      Nat.card { a : α // wellFormed (mk a) = true } := by
  have decoded (a : { a : α // wellFormed (mk a) = true }) :=
    decodeOfEncodeIsTheCommand (mk a) a.2
  refine (Nat.card_eq_of_bijective (fun a => ⟨encode (mk a), a, decoded a⟩) ⟨?_, ?_⟩).symm
  · intro a b same
    have sameWord : encode (mk a) = encode (mk b) := congrArg Subtype.val same
    have sameCommand := (decoded a).symm.trans (sameWord ▸ decoded b)
    exact Subtype.ext (inj (Except.ok.inj sameCommand))
  · rintro ⟨w, a, legal⟩
    obtain ⟨wf, word⟩ := decodedWordIsTheEncodedCommand w (mk a) legal
    exact ⟨⟨a, wf⟩, Subtype.ext word⟩

theorem card_countInRange : Nat.card { c : Int // countInRange c = true } = 2 ^ 16 :=
  (Nat.subtype_card (Finset.Icc (-32768) 32767) fun c =>
    Finset.mem_Icc.trans (countInRange_iff c).symm).trans (Int.card_Icc ..)

theorem card_ticksInRange : Nat.card { t : Nat // ticksInRange t = true } = 2 ^ 8 :=
  (Nat.subtype_card (Finset.Iic 255) fun t =>
    Finset.mem_Iic.trans (ticksInRange_iff t).symm).trans (Nat.card_Iic 255)

theorem card_operandsInRange :
    Nat.card { a : Int × Nat // (countInRange a.1 && ticksInRange a.2) = true } = 2 ^ 24 := by
  simp only [Bool.and_eq_true]
  rw [Nat.card_congr (Equiv.subtypeProdEquivProd (p := (countInRange · = true))
    (q := (ticksInRange · = true))), Nat.card_prod, card_countInRange, card_ticksInRange,
    ← pow_add]

theorem card_advanceWords : Nat.card { w : Word // ∃ d, decode w = .ok (.advance d) } = 2 ^ 16 :=
  (card_words_of_kind fun _ _ => Instr.advance.inj).trans card_countInRange

theorem card_waitWords : Nat.card { w : Word // ∃ n, decode w = .ok (.wait n) } = 2 ^ 8 :=
  (card_words_of_kind fun _ _ => Instr.wait.inj).trans card_ticksInRange

theorem card_runWords : Nat.card { w : Word // ∃ c t, decode w = .ok (.run c t) } = 2 ^ 24 := by
  have inj : Function.Injective fun a : Int × Nat => Instr.run a.1 a.2 :=
    fun _ _ same => Prod.ext_iff.2 (Instr.run.inj same)
  simpa only [Prod.exists] using (card_words_of_kind inj).trans card_operandsInRange

theorem card_homeWords : Nat.card { w : Word // ∃ c t, decode w = .ok (.home c t) } = 2 ^ 24 := by
  have inj : Function.Injective fun a : Int × Nat => Instr.home a.1 a.2 :=
    fun _ _ same => Prod.ext_iff.2 (Instr.home.inj same)
  simpa only [Prod.exists] using (card_words_of_kind inj).trans card_operandsInRange

theorem card_words_or {p q : Word → Prop} (apart : ∀ w, p w → ¬ q w) :
    Nat.card { w // p w ∨ q w } = Nat.card { w // p w } + Nat.card { w // q w } := by
  classical
  have disjoint : Disjoint p q := Pi.disjoint_iff.2 fun w =>
    Prop.disjoint_iff.2 (not_and.2 (apart w))
  rw [Nat.card_congr (subtypeOrEquiv p q disjoint), Nat.card_sum]

theorem card_word : Nat.card Word = 2 ^ 32 := by
  rw [Nat.card_congr BitVec.equivFin.toEquiv, Nat.card_fin]

/-- A word is illegal or of one of the four kinds. -/
theorem decode_kinds (w : Word) :
    (∃ r, decode w = .error r) ∨ (∃ d, decode w = .ok (.advance d)) ∨
      (∃ n, decode w = .ok (.wait n)) ∨ (∃ c t, decode w = .ok (.run c t)) ∨
      (∃ c t, decode w = .ok (.home c t)) := by
  cases decode w with
  | error r => simp
  | ok i => cases i <;> simp

/-- The illegal words and the words of the four kinds are all words, and no word is in two of these. -/
theorem card_words_by_kind :
    2 ^ 32 = Nat.card { w : Word // ∃ r, decode w = .error r } +
      (Nat.card { w : Word // ∃ d, decode w = .ok (.advance d) } +
      (Nat.card { w : Word // ∃ n, decode w = .ok (.wait n) } +
      (Nat.card { w : Word // ∃ c t, decode w = .ok (.run c t) } +
        Nat.card { w : Word // ∃ c t, decode w = .ok (.home c t) }))) := by
  rw [← card_word, ← Nat.card_congr (Equiv.subtypeUnivEquiv decode_kinds), card_words_or,
    card_words_or, card_words_or, card_words_or]
  · rintro w ⟨c, t, run⟩
    simp [run]
  · rintro w ⟨n, wait⟩
    simp [wait]
  · rintro w ⟨d, advance⟩
    simp [advance]
  · rintro w ⟨r, illegal⟩
    simp [illegal]

/-- Settles O4: each kind is counted by its operands in range, and the illegal words are the rest. -/
theorem legalWordCounts : Obligations.LegalWordCounts := by
  refine ⟨card_advanceWords, card_waitWords, card_runWords, card_homeWords, ?_⟩
  have all := card_words_by_kind
  rw [card_advanceWords, card_waitWords, card_runWords, card_homeWords] at all
  omega

end Sys2Proof

/-! PROOF. The assembler (30_encoding.md R81 to R83), and the step that takes a legal word (R80). -/

namespace Sys2Proof.Machine

/-- A command assembles exactly where its operands are in range, however that is said (R81). -/
theorem assembleCommand_eq_ite {a : AsmCommand} {p : Prop} [Decidable p]
    (range : asmInRange a = true ↔ p) :
    assembleCommand a = if p then .ok (encode (expandAsm a)) else .error .outOfRange :=
  if_congr range rfl rfl

theorem operandsInRange_iff (c : Int) (t : Nat) :
    (countInRange c && ticksInRange t) = true ↔ (-32768 ≤ c ∧ c ≤ 32767) ∧ t ≤ 255 := by
  rw [Bool.and_eq_true, countInRange_iff, ticksInRange_iff]

/-- Settles O6: the ranges are R81's, and the words are the encodings. -/
theorem assemblerRejectsOutOfRangeOperands : Obligations.AssemblerRejectsOutOfRangeOperands :=
  ⟨fun d => assembleCommand_eq_ite (countInRange_iff d),
    fun n => assembleCommand_eq_ite (ticksInRange_iff n),
    fun c t => assembleCommand_eq_ite (operandsInRange_iff c t),
    fun c t => assembleCommand_eq_ite (operandsInRange_iff c t)⟩

/-- A pseudo-instruction that asks `p` besides the range of its expansion assembles as its expansion
where `p` holds. -/
theorem assembleCommand_of_expansion {a : AsmCommand} {p : Prop} [Decidable p]
    (range : asmInRange a = true ↔ p ∧ wellFormed (expandAsm a) = true) :
    assembleCommand a =
      if p then assembleCommand (.core (expandAsm a)) else .error .outOfRange := by
  rw [assembleCommand_eq_ite range, ite_and]
  rfl

theorem fwd_inRange_iff (n : Int) (t : Nat) :
    asmInRange (.fwd n t) = true ↔ 0 ≤ n ∧ wellFormed (.run n t) = true := by
  simp only [asmInRange, wellFormed, Bool.and_eq_true, decide_eq_true_eq, countInRange_iff,
    ticksInRange_iff]
  omega

/-- REV's own bound 32768 is the least count, negated. -/
theorem rev_inRange_iff (n : Int) (t : Nat) :
    asmInRange (.rev n t) = true ↔ 0 ≤ n ∧ wellFormed (.run (-n) t) = true := by
  simp only [asmInRange, wellFormed, Bool.and_eq_true, decide_eq_true_eq, countInRange_iff,
    ticksInRange_iff]
  omega

/-- Settles O7: STEPF, STEPB and NOP have no operand to reject, and the ranges of FWD and REV are those
of their expansions with a count that is not negative. -/
theorem pseudoInstructionsExpandToOneWord : Obligations.PseudoInstructionsExpandToOneWord :=
  ⟨rfl, rfl, rfl, fun n t => assembleCommand_of_expansion (fwd_inRange_iff n t),
    fun n t => assembleCommand_of_expansion (rev_inRange_iff n t)⟩

/-- Settles O5: each example is a closed text and a closed word, and both are evaluated. -/
theorem exampleWordsOfTheSpec : Obligations.ExampleWordsOfTheSpec := by
  unfold Obligations.ExampleWordsOfTheSpec
  decide

/-- Settles O8: the step is the Sequencer's turn on the state without that turn, and it accepts the word
on the port. -/
theorem stepRunsTheDecodedCommand : Obligations.StepRunsTheDecodedCommand := by
  intro s w rest i turn idle port legal
  have stepped : step s = takeTurn .sequencer (dropTurn s) := by rw [step, turn]
  exact stepped.trans (takeTurn_sequencer_of_legal (s := dropTurn s) idle port legal)

end Sys2Proof.Machine

/-! PROOF. StepTable, ADVANCE and the steps of CURSOR (40_steptable_advance.md): the arithmetic of
steps is that of `cursorPlus`, and the lines change one at a time because PHASE stands beside CURSOR. -/

namespace Sys2Proof.Machine

/-! ## A sequence of steps (R101) -/

theorem foldl_adv_cursor (ds : List Int) (s : State) :
    (ds.foldl (fun u d => adv d u) s).cursor = cursorPlus s.cursor ds.sum := by
  induction ds generalizing s with
  | nil => exact (cursorPlus_zero s.cursor).symm
  | cons d ds ih => rw [List.foldl_cons, ih, adv_cursor, cursorPlus_add, List.sum_cons]

/-- Repeating one step is the sequence of equal directions. -/
theorem iterate_adv_eq_foldl (k : Nat) (d : Int) (s : State) :
    (fun u => adv d u)^[k] s = (List.replicate k d).foldl (fun u d => adv d u) s := by
  induction k generalizing s with
  | zero => rfl
  | succ k ih => rw [Function.iterate_succ_apply, ih, List.replicate_succ, List.foldl_cons]

theorem iterate_adv_cursor (k : Nat) (d : Int) (s : State) :
    ((fun u => adv d u)^[k] s).cursor = cursorPlus s.cursor (k * d) := by
  rw [iterate_adv_eq_foldl, foldl_adv_cursor, List.sum_replicate, nsmul_eq_mul]

/-- Settles O20: the steps add the sum of their directions to CURSOR, and that addition is mod 8. -/
theorem netDisplacementOfSteps : Obligations.NetDisplacementOfSteps :=
  ⟨fun ds s => by rw [foldl_adv_cursor, cursorPlus_toNat],
    fun k d s => by rw [iterate_adv_cursor, cursorPlus_toNat]⟩

/-! ## One line at a time (R93, R99) -/

theorem pattern_oneBit_iff :
    ∀ p : Pattern, [1#4, 2#4, 4#4, 8#4].contains p = true ↔ ∃ k : Fin 4, p = 1#4 <<< k.val := by
  decide

theorem differInOneBit_iff (p q : Pattern) :
    differInOneBit p q = true ↔ ∃ k : Fin 4, p ^^^ q = 1#4 <<< k.val :=
  pattern_oneBit_iff (p ^^^ q)

/-- Every write a turn records is of StepTable[CURSOR], and PHASE holds it after the turn (R52, R96). -/
theorem TurnEffect.writes {s s' : State} {t : Turn} (effect : TurnEffect s t s') :
    ∃ es, s'.trace = s.trace ++ es ∧
      ∀ p, .phaseWrite p ∈ es → p = romRead s.cursor ∧ s'.phase = romRead s.cursor := by
  cases effect with
  | advance | step => exact ⟨_, rfl, by simp⟩
  | hold | tick | sensor | offer => exact ⟨[], by simp, by simp⟩
  | reject | advanceNone | waitNone | waitStart | runStart | homeStart | finish | tickMore
  | tickDone | tickCheck | reset => exact ⟨_, rfl, by simp⟩

/-- Settles O22: the write is of StepTable[CURSOR], which differs in one bit from a PHASE beside
CURSOR. -/
theorem everyPhaseWriteChangesOneLine : Obligations.EveryPhaseWriteChangesOneLine := by
  intro s s' t fs p phaseAt taken adds' written
  obtain ⟨es, adds, only⟩ := (takeTurn_effect taken).writes
  cases List.append_cancel_left (adds.symm.trans adds')
  obtain ⟨rfl, phase⟩ := only p written
  exact ⟨phase, (differInOneBit_iff _ _).1 (next_write_differs phaseAt)⟩

/-- The trace invariant holds at power-up and every turn keeps it, so it holds of every reachable
state. -/
theorem Reachable.traceInv {s : State} (reachable : Reachable s) : TraceInv s := by
  induction reachable with
  | powerUp tf hs => exact resetMeetsTraceInvariant.2 tf hs
  | turn t _ taken ih => exact takeTurn_keeps_traceInv ih taken

/-- Settles O23: it is part of the trace invariant. -/
theorem reachableTracesChangeOneLineAWrite : Obligations.ReachableTracesChangeOneLineAWrite :=
  fun _ reachable => reachable.traceInv.oneBit

/-! ## The table (R90, R91, R93, R94) -/

/-- Settles O14: the table and the phase sets are closed, and both are evaluated. -/
theorem stepTableEntries : Obligations.StepTableEntries := by
  unfold Obligations.StepTableEntries
  decide

theorem romRead_opposite : ∀ c : CursorWord, romRead c &&& romRead (c + 4) = 0 := by decide

/-- Settles O15: the entries of neighbours and of opposites, at each of the eight cursors. -/
theorem stepTableNeighboursAndOpposites : Obligations.StepTableNeighboursAndOpposites :=
  fun c => ⟨(differInOneBit_iff _ _).1 (romRead_neighbours c).1, romRead_opposite c⟩

/-! ## ADV and ADVANCE (R95, R96) -/

theorem toNat_cursor_add_one :
    ∀ c : CursorWord, (c + 1#3).toNat = if c = 7#3 then 0 else c.toNat + 1 := by decide

theorem toNat_cursor_sub_one :
    ∀ c : CursorWord, (c - 1#3).toNat = if c = 0#3 then 7 else c.toNat - 1 := by decide

/-- Settles O16: ADV is its two updates and one event, and the wraps are those of 3-bit arithmetic. -/
theorem advWritesThePatternThenMoves : Obligations.AdvWritesThePatternThenMoves := by
  intro d s unit
  refine ⟨adv d s, rfl, rfl, ?_⟩
  rcases unit with rfl | rfl
  · rw [adv_cursor, cursorPlus_one, if_pos rfl, toNat_cursor_add_one]
  · rw [adv_cursor, cursorPlus_neg_one, if_neg (by decide), toNat_cursor_sub_one]

theorem cursorPlus_sign {x : Int} (moves : x ≠ 0) (c : CursorWord) :
    cursorPlus c (sign x) = if 0 < x then c + 1#3 else c - 1#3 := by
  rcases Int.lt_or_gt_of_ne moves with neg | pos
  · rw [sign_of_neg neg, cursorPlus_neg_one, if_neg neg.not_gt]
  · rw [sign_of_pos pos, cursorPlus_one, if_pos pos]

/-- Settles O17: with 0 only the end is recorded, and otherwise ADV takes one step in the direction of
the sign before it. -/
theorem advanceResult : Obligations.AdvanceResult := by
  intro x s
  rw [exec, execAdvance_eq]
  by_cases hx : x = 0
  · rw [if_pos hx, if_pos hx]
    rfl
  · rw [if_neg hx, if_neg hx, ← cursorPlus_sign hx]
    simp [adv, portWrite, State.emit]

/-! ## A step and its opposite (R97, R98) -/

theorem cursorPlus_neg_cancel (c : CursorWord) (d : Int) :
    cursorPlus (cursorPlus c d) (-d) = c := by
  rw [cursorPlus_add, add_neg_cancel, cursorPlus_zero]

/-- Settles O18: opposite moves of CURSOR cancel, and the second step writes at the cursor the first one
left. -/
theorem oppositeStepsReturnTheCursor : Obligations.OppositeStepsReturnTheCursor :=
  fun s d _ => ⟨cursorPlus_neg_cancel s.cursor d, rfl, by simp⟩

/-- Settles O19: the first step back writes at CURSOR = c + d and returns it to c, where the second
one writes. -/
theorem reversalLagsOneHalfStep : Obligations.ReversalLagsOneHalfStep := by
  intro s c d _ _ cursorAt
  have back : (adv (-d) s).cursor = c := by rw [adv_cursor, cursorAt, cursorPlus_neg_cancel]
  exact ⟨by rw [adv_phase, cursorAt], back, by rw [adv_phase, back]⟩

end Sys2Proof.Machine

/-! PROOF. Turns inside a command: while BUSY = 1 a turn other than RESET is a change of the inputs by the
environment, a hold, or one CHECK or TICK (00_scope.md R9, 41_waitticks.md R107, R109, 42_run.md R121). -/

namespace Sys2Proof.Machine

/-- The most that the environment changes: TF is set, HS moves, words are offered (R31, R32, R70). It is
what `environmentRun_effect` says of every run of the environment. -/
def environmentChange (s u : State) : Prop :=
  ∃ (flag level : Bool) (more : List Word),
    u = { s with tf := s.tf || flag, hs := level, offered := s.offered ++ more }

theorem environmentChange_refl (s : State) : environmentChange s s := ⟨false, s.hs, [], by simp⟩

/-- The environment disables no transition of the Sequencer (R171). -/
theorem environmentChange.keeps_enabled {s u : State} (change : environmentChange s u)
    (enabled : sequencerEnabled s = true) : sequencerEnabled u = true := by
  obtain ⟨flag, level, more, rfl⟩ := change
  cases hc : s.ctrl with
  | idle =>
    have port : s.offered ≠ [] := by simpa [sequencerEnabled, hc, cmdValid] using enabled
    simp [sequencerEnabled, cmdValid, port]
  | check => simp [sequencerEnabled]
  | wait =>
    have set : s.tf = true := by simpa [sequencerEnabled, hc] using enabled
    simp [sequencerEnabled, set]

theorem takeTurn_busy_cases {t : Turn} {s s' : State} (busy : s.ctrl ≠ .idle)
    (noReset : t ≠ .reset) (taken : takeTurn t s = .next s') :
    (environmentChange s s' ∧ (t = .sequencer → sequencerEnabled s = false)) ∨
    (t = .sequencer ∧ s.ctrl = .check ∧ s' = checkTurn s) ∨
    (t = .sequencer ∧ s.ctrl = .wait ∧ s.tf = true ∧ s' = waitTurn s) := by
  cases t with
  | tick | sensor | offer =>
    exact .inl ⟨environmentRun_effect ⟨by simp [isEnvironment], runTurns_cons taken []⟩, nofun⟩
  | reset => exact absurd rfl noReset
  | sequencer =>
    cases hc : s.ctrl with
    | idle => exact absurd hc busy
    | check =>
      cases (sequencerTurn_of_check hc).symm.trans taken
      exact .inr (.inl ⟨rfl, rfl, rfl⟩)
    | wait =>
      cases (sequencerTurn_of_wait hc).symm.trans taken
      cases hf : s.tf with
      | true => exact .inr (.inr ⟨rfl, rfl, rfl, rfl⟩)
      | false =>
        have holds : waitTurn s = s := by simp [waitTurn, tickTake_of_clear hf]
        exact .inl ⟨holds.symm ▸ environmentChange_refl s,
          fun _ => by simp [sequencerEnabled, hc, hf]⟩

theorem countTaken_cons {p : State → Bool} {t : Turn} {s s' : State} (h : takeTurn t s = .next s')
    (ts : List Turn) :
    countTaken p (t :: ts) s = (if t == .sequencer && p s then 1 else 0) + countTaken p ts s' := by
  simp [countTaken, h]

theorem RunWhile.runTurns_eq {p : State → Prop} {s u : State} {ts : List Turn}
    (run : RunWhile p s ts u) : runTurns ts s = .next u := by
  induction run with
  | none => rfl
  | turn _ _ taken _ ih => rw [runTurns_cons taken, ih]

/-- Where p fails no turn is taken, so the run is over. -/
theorem RunWhile.eq_nil_of_not {p : State → Prop} {s u : State} {ts : List Turn}
    (run : RunWhile p s ts u) (ended : ¬ p s) : ts = [] ∧ u = s := by
  cases run with
  | none => exact ⟨rfl, rfl⟩
  | turn here => exact absurd here ended

/-- A step of REM takes one from the steps still to come (R125). -/
theorem natAbs_signed_remMinus_sign {r : CountWord} (more : r ≠ 0#16) :
    (signed (remMinus r (sign (signed r)))).natAbs + 1 = (signed r).natAbs := by
  rw [signed_remMinus_sign more]
  rcases sign_signed_cases more with ⟨side, dir⟩ | ⟨side, dir⟩ <;> rw [dir] <;> omega

end Sys2Proof.Machine

/-! PROOF. Waits (41_waitticks.md R106 to R114): how a wait starts, what one TICK of it does, that without
a tick it holds, and by induction along its run that it takes exactly its ticks. -/

namespace Sys2Proof.Machine

/-! ## A whole wait (R107 to R110) -/

/-- What END_WAIT records (R108). -/
def endWaitEvents (k : Kind) : List Event := if k = .kWait then [.cmdDone] else []

/-- Where END_WAIT goes (R108). -/
def endWaitCtrl (k : Kind) : Ctrl := if k = .kWait then .idle else .check

/-- TICK that leaves ticks to come (R107). -/
theorem waitTurn_of_more {s : State} (flag : s.tf = true) (more : s.wcnt ≠ 1#8) :
    waitTurn s =
      { s with tf := false, wcnt := s.wcnt - 1#8, trace := s.trace ++ [.tickConsumed] } := by
  simpa [flag, more] using waitTurn_cases s

/-- The last TICK of a wait, whoever started it (R107, R108). -/
theorem waitTurn_of_last {s : State} (flag : s.tf = true) (last : s.wcnt = 1#8) :
    waitTurn s =
      { s with
        tf := false
        wcnt := 0#8
        ctrl := endWaitCtrl s.kind
        trace := s.trace ++ .tickConsumed :: endWaitEvents s.kind } := by
  by_cases owner : s.kind = .kWait <;>
    simpa [flag, last, owner, endWaitCtrl, endWaitEvents] using waitTurn_cases s

/-- No wait follows a wait at once. -/
theorem endWaitCtrl_ne_wait (k : Kind) : endWaitCtrl k ≠ .wait := by
  cases k <;> decide

theorem toNat_sub_one {n : TicksWord} (positive : n ≠ 0#8) : (n - 1#8).toNat + 1 = n.toNat := by
  bv_omega

/-- A turn taken in a wait: a hold or the environment's, or a TICK. -/
theorem takeTurn_wait_cases {t : Turn} {s s' : State} (here : s.ctrl = .wait)
    (noReset : t ≠ .reset) (taken : takeTurn t s = .next s') :
    (environmentChange s s' ∧ ¬ (t = .sequencer ∧ s.tf = true)) ∨
    (t = .sequencer ∧ s.tf = true ∧ s' = waitTurn s) := by
  have enabled : sequencerEnabled s = s.tf := by simp [sequencerEnabled, here]
  rcases takeTurn_busy_cases (by simp [here]) noReset taken with
    ⟨change, held⟩ | ⟨_, check, _⟩ | ⟨isSeq, _, flag, e⟩
  · exact .inl ⟨change, fun ⟨isSeq, flag⟩ => by simp [← enabled, held isSeq] at flag⟩
  · simp [here] at check
  · exact .inr ⟨isSeq, flag, e⟩

/-- A wait that ends has taken its WCNT ticks, and besides them only the inputs have changed. -/
theorem RunWhile.wait_ends {s u : State} {ts : List Turn}
    (run : RunWhile (fun v => v.ctrl = .wait) s ts u) (here : s.ctrl = .wait)
    (positive : s.wcnt ≠ 0#8) (ended : u.ctrl ≠ .wait) :
    countTaken (fun v => v.ctrl == .wait && v.tf) ts s = s.wcnt.toNat ∧
    ∃ (flag level : Bool) (words : List Word), u =
      { s with
        tf := flag
        hs := level
        offered := words
        wcnt := 0#8
        ctrl := endWaitCtrl s.kind
        trace := s.trace ++ List.replicate s.wcnt.toNat .tickConsumed ++
          endWaitEvents s.kind } := by
  induction run with
  | none => exact absurd here ended
  | @turn s s' u t ts _ noReset taken rest ih =>
    rw [countTaken_cons taken]
    rcases takeTurn_wait_cases here noReset taken with ⟨⟨_, _, _, rfl⟩, noTick⟩ | ⟨rfl, flag, rfl⟩
    · obtain ⟨count, flag, level, words, rfl⟩ := ih here positive ended
      refine ⟨?_, flag, level, words, rfl⟩
      rw [count]
      simpa [here] using noTick
    · by_cases last : s.wcnt = 1#8
      · rw [waitTurn_of_last flag last] at rest ⊢
        obtain ⟨rfl, rfl⟩ := rest.eq_nil_of_not (endWaitCtrl_ne_wait s.kind)
        exact ⟨by simp [here, flag, last, countTaken], false, s.hs, s.offered, by simp [last]⟩
      · rw [waitTurn_of_more flag last] at ih ⊢
        obtain ⟨count, flag', level, words, rfl⟩ := ih here (countDown_bounds positive last).1 ended
        refine ⟨?_, flag', level, words, ?_⟩
        · rw [count, ← toNat_sub_one positive, Nat.add_comm]
          simp [here, flag]
        · rw [← toNat_sub_one positive]
          simp [List.replicate_succ]

/-- Settles O27: the end of the wait is written out in `RunWhile.wait_ends`. -/
theorem waitConsumesExactlyItsTicks : Obligations.WaitConsumesExactlyItsTicks := by
  intro s u ts here positive run ended
  obtain ⟨count, _, _, _, rfl⟩ := run.wait_ends here positive ended
  exact ⟨count, rfl, rfl, rfl, rfl, rfl, rfl, rfl, rfl⟩

/-! ## The start and one TICK (R106 to R108, R111) -/

theorem exec_wait_of_ne_zero {n : Nat} (started : n ≠ 0) (s : State) :
    exec (.wait n) s = .next { s with wcnt := ticksRegister n, kind := .kWait, ctrl := .wait } :=
  if_neg started

/-- Settles O24: the two arms of WAIT_START. -/
theorem waitStart : Obligations.WaitStart :=
  ⟨fun _ => rfl, fun _ s started => exec_wait_of_ne_zero started s⟩

/-- Settles O25: the three TICK effects. -/
theorem tickTransition : Obligations.TickTransition := fun s here =>
  ⟨by simp [sequencerEnabled, here],
    fun flag more => (TurnEffect.tickMore here flag more).takeTurn_eq,
    fun flag last owner => (TurnEffect.tickDone here flag last owner).takeTurn_eq,
    fun flag last owner => (TurnEffect.tickCheck here flag last owner).takeTurn_eq⟩

/-- A TICK consumes TF and takes one from WCNT, the last one with END_WAIT's event (R107, R108). -/
theorem takeTurn_tick {s : State} (here : s.ctrl = .wait) (flag : s.tf = true)
    (positive : s.wcnt ≠ 0#8) :
    ∃ v, takeTurn .sequencer s = .next v ∧ v.tf = false ∧ v.wcnt.toNat + 1 = s.wcnt.toNat ∧
      v.trace = s.trace ++
        .tickConsumed :: (if s.wcnt = 1#8 then endWaitEvents s.kind else []) := by
  refine ⟨_, sequencerTurn_of_wait here, ?_⟩
  by_cases last : s.wcnt = 1#8
  · rw [waitTurn_of_last flag last]
    simp [last]
  · rw [waitTurn_of_more flag last]
    exact ⟨rfl, toNat_sub_one positive, by simp [last]⟩

/-- A tick that is pending in a wait is consumed by the first TICK, whatever the environment does before
it (R111). -/
theorem takeTurn_first_tick {s u : State} {ts : List Turn} (run : EnvironmentRun s ts u)
    (here : s.ctrl = .wait) (flag : s.tf = true) (positive : s.wcnt ≠ 0#8) :
    ∃ v, takeTurn .sequencer u = .next v ∧ v.tf = false ∧ v.wcnt.toNat + 1 = s.wcnt.toNat ∧
      v.trace = s.trace ++
        .tickConsumed :: (if s.wcnt = 1#8 then endWaitEvents s.kind else []) := by
  obtain ⟨_, _, _, rfl⟩ := environmentRun_effect run
  exact takeTurn_tick here (by simp [flag]) positive

/-- A CHECK that starts a wait has loaded WCNT from TPS and left TF and KIND (R122). -/
theorem checkTurn_starts_wait {s : State} (waits : (checkTurn s).ctrl = .wait) :
    s.tps ≠ 0#8 ∧ (checkTurn s).wcnt = s.tps ∧ (checkTurn s).tf = s.tf ∧
      (checkTurn s).kind = s.kind := by
  rcases checkTurn_cases s with ⟨_, e⟩ | ⟨_, _, e⟩
  · simp [e] at waits
  · rw [e, stepAction_eq] at waits ⊢
    by_cases unpaced : s.tps = 0#8
    · simp [unpaced] at waits
    · simp [unpaced]

/-- Settles O28: both starts leave TF set and load WCNT, and `takeTurn_first_tick` is the first TICK. -/
theorem pendingTickCountsAsTheFirst : Obligations.PendingTickCountsAsTheFirst := by
  refine ⟨fun n s positive fits flag => ?_, fun s s1 here owner flag taken waits => ?_⟩
  · have started : n ≠ 0 := by omega
    have loaded : (ticksRegister n).toNat = n := toNat_ticksRegister ((ticksInRange_iff n).2 fits)
    have counts : ticksRegister n ≠ 0#8 := by
      rw [ne_eq, ← BitVec.toNat_inj, loaded]; exact started
    have isLast : ticksRegister n = 1#8 ↔ n = 1 := by
      rw [← BitVec.toNat_inj, loaded]; rfl
    refine ⟨_, exec_wait_of_ne_zero started s, flag, loaded, fun ts s2 run => ?_⟩
    obtain ⟨s3, taken, clear, less, adds⟩ := takeTurn_first_tick run rfl flag counts
    exact ⟨s3, taken, clear, less.trans loaded, by simpa [isLast, endWaitEvents] using adds⟩
  · cases (sequencerTurn_of_check here).symm.trans taken
    obtain ⟨paced, loaded, keepsFlag, keepsKind⟩ := checkTurn_starts_wait waits
    refine ⟨keepsFlag.trans flag, loaded, fun ts s2 run => ?_⟩
    obtain ⟨s3, taken, clear, less, adds⟩ :=
      takeTurn_first_tick run waits (keepsFlag.trans flag) (loaded ▸ paced)
    exact ⟨s3, taken, clear, less, by simpa [keepsKind, owner, endWaitEvents] using adds⟩

/-! ## Holds (R9, R109, R114) -/

/-- Without a tick and RESET a wait with TF = 0 sees only the sensor and the offers. -/
theorem runTurns_of_waiting {ts : List Turn} {s : State} (here : s.ctrl = .wait)
    (clear : s.tf = false) (quiet : ∀ t ∈ ts, t ≠ .tick ∧ t ≠ .reset) :
    ∃ (level : Bool) (more : List Word),
      runTurns ts s = .next { s with hs := level, offered := s.offered ++ more } := by
  induction ts generalizing s with
  | nil => exact ⟨s.hs, [], by simp [runTurns]⟩
  | cons t ts ih =>
    obtain ⟨noTick, noReset⟩ := quiet t (.head _)
    have rest : ∀ t ∈ ts, t ≠ .tick ∧ t ≠ .reset := fun x hx => quiet x (.tail _ hx)
    cases t with
    | sequencer =>
      rw [runTurns_cons (TurnEffect.hold (.inr ⟨here, clear⟩)).takeTurn_eq]
      exact ih here clear rest
    | sensor level => exact ih (s := driveSensor level s) here clear rest
    | offer w =>
      obtain ⟨level, more, e⟩ := ih (s := offerWord w s) here clear rest
      exact ⟨level, w :: more, (runTurns_cons rfl ts).trans (by simpa using e)⟩
    | tick => exact absurd rfl noTick
    | reset => exact absurd rfl noReset

/-- Settles O26: in WAIT TICK alone could be enabled, and the turns hold by `runTurns_of_waiting`. -/
theorem waitHoldsWithoutATick : Obligations.WaitHoldsWithoutATick := fun _ _ here clear quiet =>
  ⟨by simp [sequencerEnabled, here, clear], runTurns_of_waiting here clear quiet⟩

theorem sequencerEnabled_eq_false_iff (s : State) :
    sequencerEnabled s = false ↔
      (s.ctrl = .wait ∧ s.tf = false) ∨ (s.ctrl = .idle ∧ s.offered = []) := by
  cases hc : s.ctrl <;> simp [sequencerEnabled, hc, cmdValid]

/-- Every transition of the Sequencer emits an event (R11), so it changes the state. -/
theorem TurnEffect.holds_or_records {s s' : State} (effect : TurnEffect s .sequencer s') :
    ((s.ctrl = .wait ∧ s.tf = false) ∨ (s.ctrl = .idle ∧ s.offered = [])) ∨
      s'.trace ≠ s.trace := by
  cases effect with
  | hold disabled => exact .inl disabled.symm
  | _ => exact .inr (by simp)

theorem takeTurn_sequencer_eq_self_iff (s : State) :
    takeTurn .sequencer s = .next s ↔
      (s.ctrl = .wait ∧ s.tf = false) ∨ (s.ctrl = .idle ∧ s.offered = []) :=
  ⟨fun held => (takeTurn_effect held).holds_or_records.resolve_right fun changed => changed rfl,
    fun disabled => (TurnEffect.hold disabled.symm).takeTurn_eq⟩

/-- Settles O50: where no transition is enabled the turn is a hold, and every transition emits an
event. -/
theorem sequencerHoldsExactlyWhereDisabled : Obligations.SequencerHoldsExactlyWhereDisabled :=
  fun s => ⟨takeTurn_sequencer_eq_self_iff s,
    (takeTurn_sequencer_eq_self_iff s).trans (sequencerEnabled_eq_false_iff s).symm⟩

end Sys2Proof.Machine

/-! PROOF. The ticks a command needs (41_waitticks.md R113, 42_run.md R128): the ticks it has consumed and
those it still owes never get fewer along its run, so it does not end before it has them. -/

namespace Sys2Proof.Machine

/-- The ticks still to be consumed before the end: those of the wait in progress and, in a RUN, those of
the steps to come. A HOME may end early, so its steps to come are not counted (R144). -/
def ticksOwed (s : State) : Nat :=
  (if s.ctrl = .wait then s.wcnt.toNat else 0) +
    (if s.kind = .kRun ∧ s.ctrl ≠ .idle then (signed s.rem).natAbs * s.tps.toNat else 0)

/-- The ticks consumed so far and those owed. -/
def ticksAccounted (s : State) : Nat := s.trace.count .tickConsumed + ticksOwed s

theorem ticksOwed_of_idle {s : State} (idle : s.ctrl = .idle) : ticksOwed s = 0 := by
  simp [ticksOwed, idle]

/-- A CHECK ends a RUN only at REM = 0, and a step hands the ticks of one step to the wait. -/
theorem ticksAccounted_le_checkTurn {s : State} (here : s.ctrl = .check) :
    ticksAccounted s ≤ ticksAccounted (checkTurn s) := by
  rcases checkTurn_cases s with ⟨ends, e⟩ | ⟨more, _, e⟩
  · have stepsDone : s.kind = .kRun → signed s.rem = 0 := fun isRun => by
      rcases ends with zero | ⟨_, isHome, _⟩
      · rw [zero]; rfl
      · simp [isRun] at isHome
    simp +contextual [e, ticksAccounted, ticksOwed, here, stepsDone]
  · have less := natAbs_signed_remMinus_sign more
    have split : (signed s.rem).natAbs * s.tps.toNat = s.tps.toNat +
        (signed (remMinus s.rem (sign (signed s.rem)))).natAbs * s.tps.toNat := by
      rw [← less]; ring
    rw [e, stepAction_eq]
    by_cases unpaced : s.tps = 0#8
    · simp [ticksAccounted, ticksOwed, here, unpaced]
    · by_cases isRun : s.kind = .kRun
      · simp [ticksAccounted, ticksOwed, here, unpaced, isRun, split]
      · simp [ticksAccounted, ticksOwed, here, isRun]

/-- A TICK consumes at least the one tick it takes off the count. -/
theorem ticksAccounted_le_waitTurn {s : State} (here : s.ctrl = .wait) (flag : s.tf = true) :
    ticksAccounted s ≤ ticksAccounted (waitTurn s) := by
  by_cases last : s.wcnt = 1#8
  · rw [waitTurn_of_last flag last]
    by_cases owner : s.kind = .kWait
    · simp [ticksAccounted, ticksOwed, here, last, owner, endWaitCtrl, endWaitEvents]
    · simp [ticksAccounted, ticksOwed, here, last, owner, endWaitCtrl, endWaitEvents, Nat.add_assoc]
  · have less : s.wcnt.toNat ≤ (s.wcnt - 1#8).toNat + 1 := by bv_omega
    rw [waitTurn_of_more flag last]
    simp only [ticksAccounted, ticksOwed, here, List.count_append, List.count_singleton_self,
      if_true]
    omega

theorem BusyRun.ticksAccounted_le {s u : State} {ts : List Turn} (run : BusyRun s ts u) :
    ticksAccounted s ≤ ticksAccounted u := by
  induction run with
  | none => exact le_rfl
  | turn busy noReset taken _ ih =>
    refine le_trans ?_ ih
    rcases takeTurn_busy_cases busy noReset taken with
      ⟨⟨_, _, _, rfl⟩, _⟩ | ⟨_, here, rfl⟩ | ⟨_, here, flag, rfl⟩
    · exact le_rfl
    · exact ticksAccounted_le_checkTurn here
    · exact ticksAccounted_le_waitTurn here flag

/-- A command that has ended has had the ticks it owed, one of them perhaps pending at its start. -/
theorem ticksOwed_le_ticks {s u : State} {ts : List Turn} (run : BusyRun s ts u)
    (ended : u.ctrl = .idle) : ticksOwed s ≤ ts.count .tick + (if s.tf then 1 else 0) := by
  have accounted := run.ticksAccounted_le
  have supplied := (consumedTicksAreTicksOfTheSource ts s u run.runTurns_eq).2
  simp only [ticksAccounted, ticksOwed_of_idle ended] at accounted
  omega

/-- Settles O30: WAIT n starts owing n ticks and RUN c, t starts owing |c|·t. -/
theorem commandsEndOnlyWithTheirTicks : Obligations.CommandsEndOnlyWithTheirTicks := by
  refine ⟨fun n s s1 u ts wf start run ended _ => ?_, fun c t s s1 u ts wf start run ended => ?_⟩
  · rcases eq_or_ne n 0 with rfl | started
    · exact Nat.zero_le _
    · cases (exec_wait_of_ne_zero started s).symm.trans start
      simpa [ticksOwed, toNat_ticksRegister wf] using ticksOwed_le_ticks run ended
  · obtain ⟨countFits, ticksFit⟩ := Bool.and_eq_true_iff.1 wf
    cases start
    simpa [ticksOwed, signed_countRegister countFits, toNat_ticksRegister ticksFit] using
      ticksOwed_le_ticks run ended

end Sys2Proof.Machine

/-! PROOF. Termination (60_exceptions.md R166, R171): a bound on the transitions a command still needs
goes down with each of them, and a live tick source and fairness always bring the next one. -/

namespace Sys2Proof.Machine

/-! ## The measure -/

/-- The TICKs until a wait ends; WCNT = 0, which no run has in a wait, would wrap. -/
def ticksToEnd (n : TicksWord) : Nat := (n - 1#8).toNat + 1

/-- A bound on the Sequencer transitions to the end of the command: each step to come costs its CHECK and
a wait of at most 256 TICKs. -/
def transitionsLeft (s : State) : Nat :=
  match s.ctrl with
  | .idle => 0
  | .check => (signed s.rem).natAbs * 257 + 1
  | .wait => (signed s.rem).natAbs * 257 + 1 + ticksToEnd s.wcnt

theorem checkTurn_lessens {s : State} (here : s.ctrl = .check) :
    transitionsLeft (checkTurn s) < transitionsLeft s := by
  rcases checkTurn_cases s with ⟨_, e⟩ | ⟨more, _, e⟩
  · simp [e, transitionsLeft, here]
  · have less := natAbs_signed_remMinus_sign more
    have short : ticksToEnd s.tps < 257 := by unfold ticksToEnd; omega
    rw [e, stepAction_eq]
    by_cases unpaced : s.tps = 0#8
    · simp only [transitionsLeft, here, unpaced, if_true]
      omega
    · simp only [transitionsLeft, here, unpaced, if_false]
      omega

theorem waitTurn_lessens {s : State} (here : s.ctrl = .wait) (flag : s.tf = true) :
    transitionsLeft (waitTurn s) < transitionsLeft s := by
  by_cases last : s.wcnt = 1#8
  · rw [waitTurn_of_last flag last]
    by_cases owner : s.kind = .kWait <;>
      simp [transitionsLeft, here, last, owner, endWaitCtrl, ticksToEnd]
  · have less : ticksToEnd (s.wcnt - 1#8) < ticksToEnd s.wcnt := by
      unfold ticksToEnd; bv_omega
    rw [waitTurn_of_more flag last]
    simp only [transitionsLeft, here]
    omega

/-- Inside a command a turn is an enabled transition and lessens the bound, or it leaves the bound and what
is enabled stays enabled (R171). -/
theorem takeTurn_lessens_or_waits {t : Turn} {s s' : State} (busy : s.ctrl ≠ .idle)
    (noReset : t ≠ .reset) (taken : takeTurn t s = .next s') :
    transitionsLeft s' < transitionsLeft s ∨
    ((t = .sequencer → sequencerEnabled s = false) ∧ transitionsLeft s' = transitionsLeft s ∧
      (sequencerEnabled s = true → sequencerEnabled s' = true)) := by
  rcases takeTurn_busy_cases busy noReset taken with
    ⟨⟨flag, level, more, rfl⟩, held⟩ | ⟨_, here, rfl⟩ | ⟨_, here, flag, rfl⟩
  · exact .inr ⟨held, rfl, environmentChange.keeps_enabled ⟨flag, level, more, rfl⟩⟩
  · exact .inl (checkTurn_lessens here)
  · exact .inl (waitTurn_lessens here flag)

/-- A turn that ends a command records CmdDone last (R11). -/
theorem takeTurn_ends_with_cmdDone {t : Turn} {s s' : State} (busy : s.ctrl ≠ .idle)
    (noReset : t ≠ .reset) (taken : takeTurn t s = .next s') (ended : s'.ctrl = .idle) :
    s'.trace.getLast? = some .cmdDone := by
  cases takeTurn_effect taken with
  | finish | tickDone => simp
  | step => dsimp only at ended; split at ended <;> cases ended
  | tickCheck | waitStart | runStart | homeStart => cases ended
  | reset => exact absurd rfl noReset
  | _ => exact absurd ended busy

theorem sequencerEnabled_of_busy {s : State} (busy : s.ctrl ≠ .idle) (flag : s.tf = true) :
    sequencerEnabled s = true := by
  cases hc : s.ctrl with
  | idle => exact absurd hc busy
  | check => simp [sequencerEnabled, hc]
  | wait => simp [sequencerEnabled, hc, flag]

/-! ## Executions that stay inside a command -/

section Busy

variable {states : Nat → State} {turns : Nat → Turn} {n : Nat} (run : Execution states turns)
  (live : TickSourceLive states turns) (fair : SequencerFair states turns)
  (busy : ∀ m, n ≤ m → (states m).ctrl ≠ .idle) (noReset : ∀ m, n ≤ m → turns m ≠ .reset)

include run busy

include live in
/-- A live tick source enables the Sequencer: a wait is all that can hold it, and a tick ends the hold. -/
theorem exists_enabled : ∃ m, n ≤ m ∧ sequencerEnabled (states m) = true := by
  cases hf : (states n).tf with
  | true => exact ⟨n, le_rfl, sequencerEnabled_of_busy (busy n le_rfl) hf⟩
  | false =>
    obtain ⟨m, hm, isTick⟩ := live n hf
    have flag : (states (m + 1)).tf = true := (tickFlagOwners _ _ _ (run m)).1 isTick
    exact ⟨m + 1, by omega, sequencerEnabled_of_busy (busy _ (by omega)) flag⟩

include noReset

theorem transitionsLeft_le {m : Nat} (later : n ≤ m) :
    transitionsLeft (states m) ≤ transitionsLeft (states n) := by
  induction m, later using Nat.le_induction with
  | base => exact le_rfl
  | succ m later ih =>
    rcases takeTurn_lessens_or_waits (busy m later) (noReset m later) (run m) with
      less | ⟨_, same, _⟩
    · exact less.le.trans ih
    · exact same.trans_le ih

include live fair

/-- The Sequencer sooner or later takes a transition: if it never did, one that is enabled would stay
enabled, and fairness would have it taken. -/
theorem exists_transitionsLeft_lt :
    ∃ m, n ≤ m ∧ transitionsLeft (states (m + 1)) < transitionsLeft (states m) := by
  by_contra never
  have waits (m : Nat) (later : n ≤ m) :=
    (takeTurn_lessens_or_waits (busy m later) (noReset m later) (run m)).resolve_left
      fun less => never ⟨m, later, less⟩
  obtain ⟨m, hm, start⟩ := exists_enabled run live busy
  have stays : ∀ k, m ≤ k → sequencerEnabled (states k) = true := fun k later => by
    induction k, later using Nat.le_induction with
    | base => exact start
    | succ k later ih => exact (waits k (hm.trans later)).2.2 ih
  obtain ⟨k, later, isSeq⟩ := fair m stays
  have disabled := (waits k (hm.trans later)).1 isSeq
  simp [stays k later] at disabled

/-- The bound cannot lessen for ever. -/
theorem not_busy_forever : False := by
  induction bound : transitionsLeft (states n) using Nat.strong_induction_on generalizing n with
  | _ b ih =>
    obtain ⟨m, later, less⟩ := exists_transitionsLeft_lt run live fair busy noReset
    have smaller : transitionsLeft (states (m + 1)) < b :=
      bound ▸ less.trans_le (transitionsLeft_le run busy noReset later)
    exact ih _ smaller (fun k hk => busy k (by omega)) (fun k hk => noReset k (by omega)) rfl

end Busy

/-- Settles O56: a command in progress does not go on for ever, and the turn that first leaves it ends it
with CmdDone. -/
theorem everyCommandCompletes : Obligations.EveryCommandCompletes := by
  intro states turns run live fair n start noReset
  have leaves : ∃ k, (states (n + k)).ctrl = .idle := by
    by_contra never
    refine not_busy_forever run live fair (fun m hm idle => never ⟨m - n, ?_⟩) noReset
    rwa [Nat.add_sub_cancel' hm]
  obtain ⟨k, first⟩ : ∃ k, Nat.find leaves = k + 1 :=
    Nat.exists_eq_add_one.2 ((Nat.find_pos leaves).2 start)
  have ended := Nat.find_spec leaves
  rw [first] at ended
  have before : (states (n + k)).ctrl ≠ .idle := Nat.find_min leaves (by omega)
  exact ⟨n + (k + 1), by omega, ended,
    takeTurn_ends_with_cmdDone before (noReset _ (by omega)) (run (n + k)) ended⟩

end Sys2Proof.Machine

/-! PROOF. RUN and its step loop (42_run.md R120 to R128): what one CHECK does, the invariant of the loop
that RUN and HOME share, and by induction along its run the trace and the registers it ends with. -/

namespace Sys2Proof.Machine

/-! ## The start and one CHECK (R120 to R122, R125, R141) -/

/-- Settles O33: the arm of RUN_START. -/
theorem runStart : Obligations.RunStart := fun _ _ _ => rfl

theorem takeTurn_check_of_ends {s : State} (here : s.ctrl = .check)
    (ends : s.rem = 0#16 ∨ (s.kind = .kHome ∧ s.hs = true)) :
    takeTurn .sequencer s = .next (completeCommand s) :=
  (sequencerTurn_of_check here).trans (by rw [checkTurn_of_ends ends])

theorem takeTurn_check_of_goesOn {s : State} (here : s.ctrl = .check) (more : s.rem ≠ 0#16)
    (goesOn : s.kind = .kHome → s.hs = false) :
    takeTurn .sequencer s = .next (stepAction s) :=
  (sequencerTurn_of_check here).trans (by rw [checkTurn_of_goesOn more goesOn])

/-- The cursor and REM after a step, by the sign of REM (R122). -/
theorem step_by_sign {r : CountWord} (more : r ≠ 0#16) (c : CursorWord) :
    cursorPlus c (sign (signed r)) = (if r.toInt < 0 then c - 1#3 else c + 1#3) ∧
      remMinus r (sign (signed r)) = if r.toInt < 0 then r + 1#16 else r - 1#16 := by
  rcases sign_signed_cases more with ⟨pos, dir⟩ | ⟨neg, dir⟩
  · have notNeg : ¬ r.toInt < 0 := pos.not_gt
    rw [dir, cursorPlus_one, if_neg notNeg, if_neg notNeg]
    exact ⟨rfl, rfl⟩
  · have isNeg : r.toInt < 0 := neg
    rw [dir, cursorPlus_neg_one, if_pos isNeg, if_pos isNeg]
    exact ⟨rfl, BitVec.sub_eq_iff_eq_add.2 (by simp [BitVec.add_assoc])⟩

/-- Settles O35: the two answers of CHECK, the step written out by the sign of REM. -/
theorem checkTransition : Obligations.CheckTransition := by
  refine fun s here => ⟨by simp [sequencerEnabled, here], takeTurn_check_of_ends here,
    fun more goesOn => ?_⟩
  obtain ⟨cursor, rem⟩ := step_by_sign more s.cursor
  rw [takeTurn_check_of_goesOn here more goesOn, stepAction_eq, cursor, rem]

theorem stepAction_busy (s : State) : (stepAction s).ctrl ≠ .idle := by
  rw [stepAction_eq]
  dsimp only
  split <;> decide

/-- Settles O36: an end leaves REM, and a step moves it by `signed_remMinus_sign`. -/
theorem remMovesOneTowardZero : Obligations.RemMovesOneTowardZero := by
  intro s s' here taken
  cases (sequencerTurn_of_check here).symm.trans taken
  rcases checkTurn_cases s with ⟨_, e⟩ | ⟨more, _, e⟩ <;> rw [e]
  · exact ⟨fun _ => rfl, fun goesOn => absurd rfl goesOn⟩
  · refine ⟨fun ended => absurd ended (stepAction_busy s), fun _ => ?_⟩
    have moves := signed_remMinus_sign more
    have nearer := natAbs_signed_remMinus_sign more
    rw [sign_eq_int_sign] at moves nearer
    rw [stepAction_eq, sign_eq_int_sign]
    exact ⟨fun zero => more (BitVec.eq_of_toInt_eq zero), moves, nearer⟩

/-! ## HS (R121, R141, R145) -/

/-- Where no HOME is about to test the sensor, no transition reads HS. -/
theorem TurnEffect.withSensor {s s' : State} {t : Turn} (effect : TurnEffect s t s')
    (level : Bool) (noTest : ¬ (s.ctrl = .check ∧ s.kind = .kHome ∧ s.rem ≠ 0#16))
    (notSensor : ∀ l, t ≠ .sensor l) :
    TurnEffect { s with hs := level } t { s' with hs := level } := by
  cases effect with
  | finish here ends =>
    exact .finish here (.inl (ends.resolve_right fun ⟨more, home, _⟩ => noTest ⟨here, home, more⟩))
  | step _ here more _ dir unit =>
    exact .step _ here more (fun home => absurd ⟨here, home, more⟩ noTest) dir unit
  | sensor l => exact absurd rfl (notSensor l)
  | hold disabled => exact .hold disabled
  | reject _ _ _ idle port illegal => exact .reject _ _ _ idle port illegal
  | advanceNone _ _ idle port legal => exact .advanceNone _ _ idle port legal
  | advance _ _ _ _ idle port legal dir unit => exact .advance _ _ _ _ idle port legal dir unit
  | waitNone _ _ idle port legal => exact .waitNone _ _ idle port legal
  | waitStart _ _ _ idle port legal some fits => exact .waitStart _ _ _ idle port legal some fits
  | runStart _ _ _ _ idle port legal => exact .runStart _ _ _ _ idle port legal
  | homeStart _ _ _ _ idle port legal => exact .homeStart _ _ _ _ idle port legal
  | tickMore here flag more => exact .tickMore here flag more
  | tickDone here flag last owner => exact .tickDone here flag last owner
  | tickCheck here flag last owner => exact .tickCheck here flag last owner
  | tick => exact .tick
  | offer w => exact .offer w
  | reset => exact .reset

/-- Settles O42: elsewhere the effect of a turn is its effect for every level of HS. -/
theorem sensorIsReadOnlyByHomeChecks : Obligations.SensorIsReadOnlyByHomeChecks := by
  intro s t level noTest notSensor
  obtain ⟨s', taken, effect⟩ := takeTurn_answers t s
  rw [taken, (effect.withSensor level noTest notSensor).takeTurn_eq]
  rfl

/-! ## The events of the steps (R123, R124) -/

theorem runEvents_succ (c : CursorWord) (d : Int) (t n : Nat) :
    runEvents c d t (n + 1) = runEvents c d t n ++ stepEvents c d t n := by
  simp [runEvents, List.range_succ]

theorem countP_isPhaseWrite_runEvents (c : CursorWord) (d : Int) (t n : Nat) :
    (runEvents c d t n).countP isPhaseWrite = n := by
  induction n with
  | zero => rfl
  | succ n ih =>
    rw [runEvents_succ, List.countP_append, ih, stepEvents, List.countP_cons_of_pos rfl,
      List.countP_replicate]
    simp [isPhaseWrite]

theorem count_tickConsumed_runEvents (c : CursorWord) (d : Int) (t n : Nat) :
    (runEvents c d t n).count .tickConsumed = n * t := by
  induction n with
  | zero => rw [Nat.zero_mul]; rfl
  | succ n ih =>
    rw [runEvents_succ, List.count_append, ih, Nat.succ_mul]
    simp [stepEvents]

/-! ## The steps of a count (R8, R125) -/

/-- Short of |c| steps the rest of the count has the sign of c. -/
theorem sign_rest_of_count {c : Int} {k : Nat} (short : k < c.natAbs) :
    sign (c - k * sign c) = sign c := by
  rcases Int.lt_or_gt_of_ne (show c ≠ 0 by omega) with neg | pos
  · rw [sign_of_neg neg, sign_of_neg (by omega)]
  · rw [sign_of_pos pos, sign_of_pos (by omega)]

/-- The count is used up after |c| steps and not before. -/
theorem rest_of_count_eq_zero_iff {c : Int} {k : Nat} (within : k ≤ c.natAbs) :
    c - k * sign c = 0 ↔ k = c.natAbs := by
  rcases lt_trichotomy c 0 with neg | rfl | pos
  · rw [sign_of_neg neg]
    omega
  · simpa [sign] using within
  · rw [sign_of_pos pos]
    omega

/-! ## The invariant of the step loop -/

/-- The ticks of the wait in progress that are still to come. -/
def ticksPending (s : State) : Nat := if s.ctrl = .wait then s.wcnt.toNat else 0

/-- `v` stands in the step loop that started at the CHECK `s`, with `k` steps taken, the ticks of the last
one perhaps still to come. -/
structure LoopAt (s : State) (k : Nat) (v : State) : Prop where
  busy : v.ctrl ≠ .idle
  stepper : s.kind ≠ .kWait
  kind : v.kind = s.kind
  tps : v.tps = s.tps
  err : v.err = s.err
  within : k ≤ (signed s.rem).natAbs
  rem : signed v.rem = signed s.rem - k * sign (signed s.rem)
  cursor : v.cursor = cursorPlus s.cursor (k * sign (signed s.rem))
  phase : v.phase = if k = 0 then s.phase
    else romRead (cursorPlus s.cursor (k * sign (signed s.rem) - sign (signed s.rem)))
  waitCounts : v.ctrl = .wait → v.wcnt ≠ 0#8
  trace : v.trace ++ List.replicate (ticksPending v) .tickConsumed =
    s.trace ++ runEvents s.cursor (sign (signed s.rem)) s.tps.toNat k

theorem loopAt_start {s : State} (here : s.ctrl = .check) (stepper : s.kind ≠ .kWait) :
    LoopAt s 0 s where
  busy := by simp [here]
  stepper := stepper
  kind := rfl
  tps := rfl
  err := rfl
  within := Nat.zero_le _
  rem := by simp
  cursor := by simp [cursorPlus_zero]
  phase := rfl
  waitCounts := by simp [here]
  trace := by simp [ticksPending, here, runEvents]

/-- The environment changes nothing that the loop reads, TF and HS aside. -/
theorem LoopAt.environment {s v v' : State} {k : Nat} (loop : LoopAt s k v)
    (change : environmentChange v v') : LoopAt s k v' := by
  obtain ⟨_, _, _, rfl⟩ := change
  exact { loop with }

theorem ticksPending_stepAction (s : State) : ticksPending (stepAction s) = s.tps.toNat := by
  rw [stepAction_eq]
  by_cases unpaced : s.tps = 0#8 <;> simp [ticksPending, unpaced]

/-- In CHECK no tick is pending. -/
theorem LoopAt.trace_of_check {s v : State} {k : Nat} (loop : LoopAt s k v)
    (here : v.ctrl = .check) :
    v.trace = s.trace ++ runEvents s.cursor (sign (signed s.rem)) s.tps.toNat k := by
  simpa [ticksPending, here] using loop.trace

/-- REM is 0 after the last step, and not before. -/
theorem LoopAt.rem_eq_zero_iff {s v : State} {k : Nat} (loop : LoopAt s k v) :
    v.rem = 0#16 ↔ k = (signed s.rem).natAbs := by
  rw [← rest_of_count_eq_zero_iff loop.within, ← loop.rem]
  exact BitVec.toInt_inj.symm

/-- A CHECK that goes on takes the next step (R122). -/
theorem LoopAt.step {s v : State} {k : Nat} (loop : LoopAt s k v) (here : v.ctrl = .check)
    (more : v.rem ≠ 0#16) : LoopAt s (k + 1) (stepAction v) := by
  have short : k < (signed s.rem).natAbs :=
    lt_of_le_of_ne loop.within fun all => more (loop.rem_eq_zero_iff.2 all)
  have dir := sign_rest_of_count short
  rw [← loop.rem] at dir
  have next : ((k + 1 : Nat) : Int) * sign (signed s.rem) =
      k * sign (signed s.rem) + sign (signed s.rem) := by push_cast; ring
  have stepped := stepAction_eq v
  exact
    { busy := stepAction_busy v
      stepper := loop.stepper
      kind := by rw [stepped, ← loop.kind]
      tps := by rw [stepped, ← loop.tps]
      err := by rw [stepped, ← loop.err]
      within := short
      rem := by rw [stepped, signed_remMinus_sign more, dir, loop.rem, next, sub_sub]
      cursor := by rw [stepped, dir, loop.cursor, cursorPlus_add, next]
      phase := by
        rw [stepped, if_neg k.succ_ne_zero, next, add_sub_cancel_right, ← loop.cursor]
      waitCounts := by
        rw [stepped]
        by_cases unpaced : v.tps = 0#8 <;> simp [unpaced]
      trace := by
        rw [ticksPending_stepAction, stepped, loop.trace_of_check here, loop.tps, loop.cursor,
          runEvents_succ, stepEvents]
        simp }

/-- A TICK takes one of the pending ticks (R107, R108). -/
theorem LoopAt.tick {s v : State} {k : Nat} (loop : LoopAt s k v) (here : v.ctrl = .wait)
    (flag : v.tf = true) : LoopAt s k (waitTurn v) := by
  have owner : v.kind ≠ .kWait := loop.kind ▸ loop.stepper
  have recorded := loop.trace
  by_cases last : v.wcnt = 1#8
  · rw [waitTurn_of_last flag last]
    exact { loop with
      busy := by simp [endWaitCtrl, owner]
      waitCounts := by simp [endWaitCtrl, owner]
      trace := by simpa [ticksPending, here, last, endWaitCtrl, endWaitEvents, owner] using recorded }
  · have positive := loop.waitCounts here
    have pending : ticksPending v = (v.wcnt - 1#8).toNat + 1 := by
      rw [toNat_sub_one positive, ticksPending, if_pos here]
    rw [waitTurn_of_more flag last]
    exact { loop with
      waitCounts := fun _ => (countDown_bounds positive last).1
      trace := by
        rw [← recorded, pending, List.replicate_succ]
        simp [ticksPending, here] }

/-- A turn inside the loop: it stays in the loop, with one step more after a CHECK, or it is the CHECK that
ends the command. -/
theorem LoopAt.takeTurn {s v v' : State} {k : Nat} {t : Turn} (loop : LoopAt s k v)
    (noReset : t ≠ .reset) (taken : takeTurn t v = .next v') :
    LoopAt s (k + if t == .sequencer && v.ctrl == .check then 1 else 0) v' ∨
    (t = .sequencer ∧ v.ctrl = .check ∧ (v.rem = 0#16 ∨ (v.kind = .kHome ∧ v.hs = true)) ∧
      v' = completeCommand v) := by
  rcases takeTurn_busy_cases loop.busy noReset taken with
    ⟨change, held⟩ | ⟨rfl, here, rfl⟩ | ⟨rfl, here, flag, rfl⟩
  · have noCheck : ¬ (t = .sequencer ∧ v.ctrl = .check) := fun ⟨isSeq, here⟩ => by
      have disabled := held isSeq
      simp [sequencerEnabled, here] at disabled
    exact .inl (by simpa [noCheck] using loop.environment change)
  · rcases checkTurn_cases v with ⟨ends, e⟩ | ⟨more, _, e⟩ <;> rw [e]
    · exact .inr ⟨rfl, here, ends.imp_right And.right, rfl⟩
    · exact .inl (by simpa [here] using loop.step here more)
  · exact .inl (by simpa [here] using loop.tick here flag)

/-- Along a run the steps taken are the CHECKs taken; once the command has ended, the last CHECK is the one
that took none. -/
theorem LoopAt.run {s v u : State} {k : Nat} {ts : List Turn} (loop : LoopAt s k v)
    (run : BusyRun v ts u) :
    LoopAt s (k + countTaken (fun x => x.ctrl == .check) ts v) u ∨
    ∃ n w, n + 1 = k + countTaken (fun x => x.ctrl == .check) ts v ∧ LoopAt s n w ∧
      w.ctrl = .check ∧ (w.rem = 0#16 ∨ (w.kind = .kHome ∧ w.hs = true)) ∧ u = completeCommand w := by
  induction run generalizing k with
  | none => exact .inl loop
  | turn _ noReset taken rest ih =>
    rw [countTaken_cons taken, ← Nat.add_assoc]
    rcases loop.takeTurn noReset taken with onward | ⟨rfl, here, ends, rfl⟩
    · exact ih onward
    · obtain ⟨rfl, rfl⟩ := rest.eq_nil_of_not (by simp)
      exact .inr ⟨k, _, by simp [here, countTaken], loop, here, ends, rfl⟩

/-! ## A whole RUN -/

theorem loopAt_of_run {c : Int} {t : Nat} {s s1 : State} (start : exec (.run c t) s = .next s1) :
    LoopAt s1 0 s1 := by
  cases start
  exact loopAt_start rfl nofun

/-- A RUN that ends has come through the loop to a CHECK with REM = 0. -/
theorem run_ends_at_check {c : Int} {t : Nat} {s s1 u : State} {ts : List Turn}
    (start : exec (.run c t) s = .next s1) (run : BusyRun s1 ts u) (ended : u.ctrl = .idle) :
    ∃ n w, LoopAt s1 n w ∧ w.ctrl = .check ∧ w.rem = 0#16 ∧ u = completeCommand w := by
  rcases (loopAt_of_run start).run run with loop | ⟨n, w, _, loop, here, ends, rfl⟩
  · exact absurd ended loop.busy
  · cases start
    have isRun : w.kind = .kRun := loop.kind
    exact ⟨n, w, loop, here, ends.resolve_right (by simp [isRun]), rfl⟩

/-- Settles O37: at the last CHECK the invariant holds with the |c| steps that leave REM = 0. -/
theorem runTraceAndFinalState : Obligations.RunTraceAndFinalState := by
  intro c t s s1 u ts wf start run ended
  obtain ⟨n, w, loop, here, done, rfl⟩ := run_ends_at_check start run ended
  obtain ⟨countFits, ticksFit⟩ := Bool.and_eq_true_iff.1 wf
  cases start
  have count : signed (countRegister c) = c := signed_countRegister countFits
  have ticks : (ticksRegister t).toNat = t := toNat_ticksRegister ticksFit
  have steps : n = c.natAbs := (loop.rem_eq_zero_iff.1 done).trans (congrArg _ count)
  have moved : (n : Int) * Int.sign c = c := by rw [steps, mul_comm, Int.sign_mul_natAbs]
  have trace := loop.trace_of_check here
  have cursor := loop.cursor
  have phase := loop.phase
  simp only [count, ticks, sign_eq_int_sign, moved] at trace cursor phase
  subst steps
  refine ⟨⟨_, rfl, ?_, countP_isPhaseWrite_runEvents .., count_tickConsumed_runEvents ..⟩, ?_, done,
    ?_, loop.err⟩
  · rw [completeCommand_trace, trace]
  · rw [completeCommand_cursor, cursor, cursorPlus_toNat]
  · simpa using phase

/-! ## RUN without ticks (R126, R128) -/

/-- A turn taken in CHECK: the environment's, or the CHECK. -/
theorem takeTurn_check_cases {t : Turn} {s s' : State} (here : s.ctrl = .check)
    (noReset : t ≠ .reset) (taken : takeTurn t s = .next s') :
    (t ≠ .sequencer ∧ environmentChange s s') ∨ (t = .sequencer ∧ s' = checkTurn s) := by
  rcases takeTurn_busy_cases (by simp [here]) noReset taken with
    ⟨change, held⟩ | ⟨isSeq, _, e⟩ | ⟨_, wait, _⟩
  · exact .inl ⟨fun isSeq => by simpa [sequencerEnabled, here] using held isSeq, change⟩
  · exact .inr ⟨isSeq, e⟩
  · simp [here] at wait

/-- With TPS = 0 the loop of a RUN stays in CHECK for as many CHECKs as there are steps to come. -/
theorem LoopAt.exists_unpaced_run {ts : List Turn} {s v : State} {k : Nat} (loop : LoopAt s k v)
    (here : v.ctrl = .check) (isRun : s.kind = .kRun) (unpaced : s.tps = 0#8) (noReset : .reset ∉ ts)
    (count : k + ts.count .sequencer = (signed s.rem).natAbs) :
    ∃ u, RunWhile (fun x => x.ctrl = .check) v ts u ∧ u.ctrl = .check ∧
      LoopAt s (signed s.rem).natAbs u := by
  induction ts generalizing v k with
  | nil => exact ⟨v, .none v, here, count ▸ loop⟩
  | cons t ts ih =>
    obtain ⟨notReset, restQuiet⟩ : t ≠ .reset ∧ .reset ∉ ts := by simpa [eq_comm] using noReset
    obtain ⟨v', taken, -⟩ := takeTurn_answers t v
    have onward : v'.ctrl = .check ∧
        ∃ n, LoopAt s n v' ∧ n + ts.count .sequencer = (signed s.rem).natAbs := by
      rcases takeTurn_check_cases here notReset taken with ⟨notSeq, change⟩ | ⟨rfl, rfl⟩
      · refine ⟨?_, k, loop.environment change, by simpa [notSeq] using count⟩
        obtain ⟨_, _, _, rfl⟩ := change
        exact here
      · rw [List.count_cons_self] at count
        have more : v.rem ≠ 0#16 := fun zero => by
          have all := loop.rem_eq_zero_iff.1 zero
          omega
        rw [checkTurn_of_goesOn more (by simp [loop.kind, isRun])]
        exact ⟨by simp [stepAction_eq, loop.tps, unpaced], k + 1, loop.step here more, by omega⟩
    obtain ⟨here', n, loop', count'⟩ := onward
    obtain ⟨u, run, ends⟩ := ih loop' here' restQuiet count'
    exact ⟨u, .turn here notReset taken run, ends⟩

/-- Settles O38: after |c| CHECKs REM is 0, so the next CHECK ends the command, and |c| steps of no ticks
have consumed none. -/
theorem unpacedRunCompletes : Obligations.UnpacedRunCompletes := by
  intro c s s1 ts wf start noReset count
  obtain ⟨countFits, _⟩ := Bool.and_eq_true_iff.1 wf
  have atStart := loopAt_of_run start
  cases start
  have steps : (signed (countRegister c)).natAbs = c.natAbs := by
    rw [signed_countRegister countFits]
  obtain ⟨u, run, here, loop⟩ := atStart.exists_unpaced_run rfl rfl rfl noReset
    ((Nat.zero_add _).trans (count.trans steps.symm))
  refine ⟨u, _, run, here, takeTurn_check_of_ends here (.inl (loop.rem_eq_zero_iff.2 rfl)), rfl, ?_⟩
  rw [completeCommand_trace, loop.trace_of_check here]
  simp [count_tickConsumed_runEvents, ticksRegister, ticksBits]

end Sys2Proof.Machine

/-! PROOF. HOME (43_home.md R140 to R146): its start, the CHECK that ends it, the early exit by the invariant
of the step loop it shares with RUN, and its simulation by a RUN where no CHECK reads released. -/

namespace Sys2Proof.Machine

/-! ## The start and a HOME that takes no step (R140, R142) -/

/-- Settles O34: the arm of HOME_START. -/
theorem homeStart : Obligations.HomeStart := fun _ _ _ => rfl

/-- Settles O39: the environment changes none of the registers HOME_START loads, so the first CHECK finds
REM = 0 or HS = 1 and ends the command. -/
theorem homeAlreadyReleasedDoesNothing : Obligations.HomeAlreadyReleasedDoesNothing := by
  intro w rest c t s idle port legal
  obtain ⟨countFits, _⟩ := Bool.and_eq_true_iff.1 (decodedWordIsTheEncodedCommand w _ legal).1
  refine ⟨_, takeTurn_sequencer_of_legal idle port legal, rfl, fun ts s2 run ends => ?_⟩
  obtain ⟨_, _, _, rfl⟩ := environmentRun_effect run
  refine ⟨_, takeTurn_check_of_ends rfl ?_, rfl, by simp, rfl, rfl, rfl, rfl,
    signed_countRegister countFits⟩
  exact ends.imp (congrArg countRegister) fun released => ⟨rfl, released⟩

/-! ## Early exit (R144, R146) -/

theorem loopAt_of_home {c : Int} {t : Nat} {s sh : State} (start : exec (.home c t) s = .next sh) :
    LoopAt sh 0 sh := by
  cases start
  exact loopAt_start rfl nofun

/-- In CHECK the command has not ended, so every CHECK taken on the way was a step. -/
theorem LoopAt.run_to_check {s u : State} {ts : List Turn} (loop : LoopAt s 0 s)
    (run : BusyRun s ts u) (here : u.ctrl = .check) :
    LoopAt s (countTaken (fun x => x.ctrl == .check) ts s) u := by
  rcases loop.run run with onward | ⟨_, _, _, _, _, _, rfl⟩
  · rwa [Nat.zero_add] at onward
  · cases here

/-- Settles O41: at the CHECK before step k the loop has taken k − 1 steps, and the CHECK that reads
released ends the command there. -/
theorem homeEarlyExitCounts : Obligations.HomeEarlyExitCounts := by
  intro c t k s sh u v ts wf start run here more released order taken
  obtain ⟨countFits, ticksFit⟩ := Bool.and_eq_true_iff.1 wf
  have loop := (loopAt_of_home start).run_to_check run here
  rw [← Nat.sub_eq_of_eq_add order] at loop
  cases start
  cases (takeTurn_check_of_ends here (.inr ⟨loop.kind, released⟩)).symm.trans taken
  have count : signed (countRegister c) = c := signed_countRegister countFits
  have ticks : (ticksRegister t).toNat = t := toNat_ticksRegister ticksFit
  have short : k - 1 ≠ c.natAbs := fun all => more (loop.rem_eq_zero_iff.2 (by rw [count, all]))
  have within := loop.within
  have trace := loop.trace_of_check here
  have cursor := loop.cursor
  have rem := loop.rem
  simp only [count, ticks, sign_eq_int_sign] at within trace cursor rem
  refine ⟨by omega, by omega, rfl,
    ⟨_, rfl, ?_, countP_isPhaseWrite_runEvents .., count_tickConsumed_runEvents ..⟩, ?_, rem⟩
  · rw [completeCommand_trace, trace]
  · rw [completeCommand_cursor, cursor, cursorPlus_toNat]

/-! ## Bounded homing (R143)

A HOME is simulated by a RUN, turn for turn: the two differ in KIND alone, and KIND is read by the sensor
test of CHECK and by END_WAIT, where both go back to CHECK. -/

/-- The same block in the middle of a RUN. -/
def State.asRun (s : State) : State := { s with kind := .kRun }

/-- A turn of a HOME whose CHECK does not end it by the sensor is the turn of the RUN. -/
theorem TurnEffect.asRun {v v' : State} {t : Turn} (effect : TurnEffect v t v')
    (busy : v.ctrl ≠ .idle) (home : v.kind = .kHome) (noReset : t ≠ .reset)
    (unreleased : t = .sequencer → v.ctrl = .check → v.rem ≠ 0#16 → v.hs = false) :
    TurnEffect v.asRun t v'.asRun := by
  cases effect with
  | reject _ _ _ idle | advanceNone _ _ idle | advance _ _ _ _ idle | waitNone _ _ idle
  | waitStart _ _ _ idle | runStart _ _ _ _ idle | homeStart _ _ _ _ idle => exact absurd idle busy
  | finish here ends =>
    exact .finish here (.inl (ends.resolve_right fun ⟨more, _, released⟩ => by
      simp [unreleased rfl here more] at released))
  | step d here more _ dir unit => exact .step d here more nofun dir unit
  | tickDone _ _ _ owner => simp [home] at owner
  | tickCheck here flag last => exact .tickCheck here flag last nofun
  | hold disabled => exact .hold disabled
  | tickMore here flag more => exact .tickMore here flag more
  | tick => exact .tick
  | sensor level => exact .sensor level
  | offer w => exact .offer w
  | reset => exact absurd rfl noReset

/-- Inside a command no turn but RESET writes KIND (R26). -/
theorem kind_of_takeTurn_busy {t : Turn} {s s' : State} (busy : s.ctrl ≠ .idle)
    (noReset : t ≠ .reset) (taken : takeTurn t s = .next s') : s'.kind = s.kind := by
  by_contra written
  rcases (kindAndTpsAreWrittenOnlyOnAcceptance s s' t taken).1 (.inl written) with
    isReset | ⟨_, idle, _⟩
  · exact noReset isReset
  · exact busy idle

/-- No CHECK among the turns `ts` from `s` reads released with steps left (R143's premise). -/
def NeverReadsReleased (s : State) (ts : List Turn) : Prop :=
  ∀ (before after : List Turn) (v : State), ts = before ++ .sequencer :: after →
    runTurns before s = .next v → v.ctrl = .check → v.rem ≠ 0#16 → v.hs = false

theorem NeverReadsReleased.head {s : State} {t : Turn} {ts : List Turn}
    (never : NeverReadsReleased s (t :: ts)) (isSeq : t = .sequencer) (here : s.ctrl = .check)
    (more : s.rem ≠ 0#16) : s.hs = false :=
  never [] ts s (by rw [isSeq, List.nil_append]) rfl here more

theorem NeverReadsReleased.tail {s s' : State} {t : Turn} {ts : List Turn}
    (never : NeverReadsReleased s (t :: ts)) (taken : takeTurn t s = .next s') :
    NeverReadsReleased s' ts := fun before after v split reached =>
  never (t :: before) after v (by rw [split, List.cons_append])
    ((runTurns_cons taken before).trans reached)

/-- The simulation along a run, by induction on its turns. -/
theorem busyRun_asRun {v u : State} {ts : List Turn} (run : BusyRun v ts u) (home : v.kind = .kHome)
    (never : NeverReadsReleased v ts) : BusyRun v.asRun ts u.asRun := by
  induction run with
  | none v => exact .none v.asRun
  | turn busy noReset taken _ ih =>
    have simulated := (takeTurn_effect taken).asRun busy home noReset never.head
    exact .turn busy noReset simulated.takeTurn_eq
      (ih ((kind_of_takeTurn_busy busy noReset taken).trans home) (never.tail taken))

/-- Settles O40: HOME_START and RUN_START leave the same state, KIND apart, and from there a RUN simulates
the HOME. -/
theorem boundedHomeIsARun : Obligations.BoundedHomeIsARun := by
  intro c t s sh sr u ts _ homeStarts runStarts run never
  cases homeStarts
  cases runStarts
  exact busyRun_asRun run rfl never

end Sys2Proof.Machine

/-! PROOF. Exceptions (60_exceptions.md section 1): what every step does whatever the state, and the step
that takes an illegal word. A step is a turn taken once the schedule has dropped it, so both are read off
the turn. -/

namespace Sys2Proof.Machine

/-! ## Every step (R150, R154) -/

/-- No agent writes the schedule (log entry 3). -/
theorem TurnEffect.keeps_schedule {s s' : State} {t : Turn} (effect : TurnEffect s t s') :
    s'.schedule = s.schedule := by
  cases effect <;> rfl

/-- Settles O12: every turn answers a next state by one of its effects; no effect writes the schedule, and
each adds its events at the end of the trace. -/
theorem everyStepAnswersANextState : Obligations.EveryStepAnswersANextState := by
  intro s
  obtain ⟨s', taken, effect⟩ := takeTurn_answers (nextTurn s) (dropTurn s)
  obtain ⟨es, adds, -⟩ := effect.writes
  exact ⟨s', taken, effect.keeps_schedule, es, adds⟩

/-! ## IllegalCommand (R151) -/

/-- Settles O9: in IDLE an illegal word on the port is the Sequencer's rejection, taken on the state
without that turn. -/
theorem illegalCommandSetsErrAndNothingElse : Obligations.IllegalCommandSetsErrAndNothingElse := by
  intro s w rest r turn idle port illegal
  have stepped : step s = takeTurn .sequencer (dropTurn s) := by rw [step, turn]
  have rejects := TurnEffect.reject (s := dropTurn s) w rest r idle port illegal
  exact stepped.trans rejects.takeTurn_eq

end Sys2Proof.Machine

/-! PROOF. Reset, hazards and the end of a run (70_reset_and_hazards.md): CURSOR stays 0 from RESET to the
first write, a RUN that reverses spends two of its steps on the reversal lag, and an ended run is left
alone by every turn but RESET and an offer. -/

namespace Sys2Proof.Machine

/-! ## RESET (R180, R38) -/

/-- STATUS shows CURSOR, BUSY and ERR, and RESET clears all three (R33). -/
theorem statusPort_resetAction (s : State) : statusPort (resetAction s) = 0x00#8 := by
  simp [statusPort, busy]

/-- Settles O47: RESET is its one update, and power-up holds the same values. -/
theorem resetSetsEveryRegister : Obligations.ResetSetsEveryRegister := by
  refine ⟨fun _ => rfl, fun s s' taken => ?_, fun s atReset => ?_⟩
  · cases taken
    exact statusPort_resetAction s
  · obtain ⟨tf, hs, rfl⟩ : ∃ tf hs, s = State.powerUp tf hs :=
      atReset.elim (fun h => ⟨false, false, h⟩) id
    exact ⟨rfl, rfl, rfl, rfl, rfl, rfl, rfl, rfl, statusPort_powerUp tf hs⟩

/-! ## The first step after RESET (R183) -/

/-- Turns without RESET that write no pattern leave CURSOR where it is (R22). -/
theorem runTurns_cursor_of_no_write {ts : List Turn} {s u : State} (run : runTurns ts s = .next u)
    (noReset : .reset ∉ ts) :
    ∃ es, u.trace = s.trace ++ es ∧ (es.countP isPhaseWrite = 0 → u.cursor = s.cursor) := by
  induction ts generalizing s with
  | nil => cases run; exact ⟨[], by simp, fun _ => rfl⟩
  | cons t ts ih =>
    obtain ⟨notReset, restQuiet⟩ : t ≠ .reset ∧ .reset ∉ ts := by simpa [eq_comm] using noReset
    obtain ⟨s', taken, -⟩ := takeTurn_answers t s
    rw [runTurns_cons taken] at run
    obtain ⟨fs, adds, turn⟩ := onlyStepsMoveCursorAndPhase s s' t notReset taken
    obtain ⟨es, addsRest, rest⟩ := ih run restQuiet
    refine ⟨fs ++ es, by rw [addsRest, adds, List.append_assoc], fun silent => ?_⟩
    obtain ⟨turnSilent, restSilent⟩ : fs.countP isPhaseWrite = 0 ∧ es.countP isPhaseWrite = 0 := by
      rwa [List.countP_append, Nat.add_eq_zero_iff] at silent
    rcases turn with ⟨stays, -, -⟩ | ⟨-, -, -, writes, -⟩
    · exact (rest restSilent).trans stays
    · omega

/-- A turn that records a write leaves TF: a step consumes no tick (R52, R96). -/
theorem TurnEffect.tf_of_write {s s' : State} {t : Turn} {es : List Event} {p : Pattern}
    (effect : TurnEffect s t s') (adds : s'.trace = s.trace ++ es) (written : .phaseWrite p ∈ es) :
    s'.tf = s.tf := by
  cases effect with
  | tickMore | tickDone | tickCheck =>
    cases List.append_cancel_left adds
    simp at written
  | tick =>
    cases List.self_eq_append_right.1 adds
    simp at written
  | _ => rfl

/-- A count operand other than 0 is a REM other than 0 (R73). -/
theorem countRegister_ne_zero {c : Int} (fits : countInRange c = true) (moves : c ≠ 0) :
    countRegister c ≠ 0#16 := fun zero =>
  moves ((signed_countRegister fits).symm.trans (congrArg signed zero))

/-- A step at CURSOR = 0 writes StepTable[0], whatever the sign of REM. -/
theorem stepAction_at_zero {s : State} (atZero : s.cursor = 0#3) :
    (stepAction s).phase = 0x1#4 ∧ (stepAction s).tf = s.tf := by
  rw [stepAction_eq, atZero]
  exact ⟨rfl, rfl⟩

/-- Settles O48: CURSOR is 0 after RESET and until the first write, and every step writes
StepTable[CURSOR]. -/
theorem firstStepAfterResetWritesEntryZero : Obligations.FirstStepAfterResetWritesEntryZero := by
  refine ⟨fun s s1 u v ts t es fs p isReset run noReset addsRun silent taken adds written => ?_,
    fun s s1 isReset => ?_⟩ <;> cases isReset
  · obtain ⟨es', addsRun', stays⟩ := runTurns_cursor_of_no_write run noReset
    cases List.append_cancel_left (addsRun'.symm.trans addsRun)
    have atZero : u.cursor = 0#3 := stays silent
    have effect := takeTurn_effect taken
    obtain ⟨fs', adds', only⟩ := effect.writes
    cases List.append_cancel_left (adds'.symm.trans adds)
    rw [atZero] at only
    obtain ⟨entry, phase⟩ := only p written
    exact ⟨entry, phase, effect.tf_of_write adds written⟩
  · refine ⟨fun x moves => ⟨_, execAdvance_eq x _, ?_⟩, fun c t wf moves => ?_,
      fun c t wf moves unreleased => ?_⟩
    · rw [if_neg moves]
      exact ⟨rfl, rfl⟩
    · have more := countRegister_ne_zero (Bool.and_eq_true_iff.1 wf).1 moves
      exact ⟨_, _, rfl, takeTurn_check_of_goesOn rfl more nofun, stepAction_at_zero rfl⟩
    · have more := countRegister_ne_zero (Bool.and_eq_true_iff.1 wf).1 moves
      exact ⟨_, _, rfl, takeTurn_check_of_goesOn rfl more fun _ => unreleased,
        stepAction_at_zero rfl⟩

/-! ## A reversal (R185) -/

theorem sign_unit_mul_of_pos {d : Int} (unit : d = 1 ∨ d = -1) {n : Int} (pos : 0 < n) :
    Int.sign (d * n) = d := by
  rw [Int.sign_mul, Int.sign_eq_one_of_pos pos, mul_one]
  rcases unit with rfl | rfl <;> rfl

/-- Settles O43: the last of the k + 2 steps writes at the old CURSOR moved by the k + 1 before it, and the
first of those only brings CURSOR back to the entry the lines had. -/
theorem reversalCostsTwoHalfSteps : Obligations.ReversalCostsTwoHalfSteps := by
  intro d k t s s1 u ts unit _ wf _ start run ended
  obtain ⟨-, -, -, phase, -⟩ := runTraceAndFinalState _ t s s1 u ts wf start run ended
  have dir : Int.sign (-d * (k + 2)) = -d := sign_unit_mul_of_pos (by omega) (by omega)
  have moves : -d * ((k : Int) + 2) ≠ 0 := mul_ne_zero (by omega) (by omega)
  have back : -d * ((k : Int) + 2) - -d = -d + -d * k := by ring
  rw [phase, if_neg moves, dir, back, cursorPlus_add]

/-! ## The end of a run (R199) -/

theorem runEnded_iff (s : State) :
    runEnded s = true ↔ s.schedule.any isOffer = false ∧ s.offered = [] ∧ s.ctrl = .idle := by
  simp [runEnded, and_assoc]

/-- In IDLE with an empty port only a tick, the sensor and a hold are left of the turns that are neither
RESET nor an offer, and they leave all but TF and HS. -/
theorem TurnEffect.of_ended {s s' : State} {t : Turn} (effect : TurnEffect s t s')
    (idle : s.ctrl = .idle) (port : s.offered = []) (noReset : t ≠ .reset)
    (noOffer : isOffer t = false) : ∃ flag level, s' = { s with tf := flag, hs := level } := by
  cases effect with
  | hold => exact ⟨s.tf, s.hs, rfl⟩
  | tick => exact ⟨true, s.hs, rfl⟩
  | sensor level => exact ⟨s.tf, level, rfl⟩
  | offer => cases noOffer
  | reset => exact absurd rfl noReset
  | reject _ _ _ _ word | advanceNone _ _ _ word | advance _ _ _ _ _ word | waitNone _ _ _ word
  | waitStart _ _ _ _ word | runStart _ _ _ _ _ word | homeStart _ _ _ _ _ word =>
    simp [port] at word
  | finish here | step _ here | tickMore here | tickDone here | tickCheck here =>
    simp [idle] at here

/-- The turn a step takes is no offer where no offer is scheduled, and none is scheduled after it. -/
theorem nextTurn_of_no_offer {s : State} (quiet : s.schedule.any isOffer = false) :
    isOffer (nextTurn s) = false ∧ (dropTurn s).schedule.any isOffer = false := by
  cases h : s.schedule with
  | nil => simp [nextTurn, h, isOffer]
  | cons t ts => simpa [nextTurn, h] using quiet

/-- Settles O51: the turn taken changes TF and HS at most, and neither `runEnded` nor `observe` reads
them. -/
theorem endedRunKeepsItsObservation : Obligations.EndedRunKeepsItsObservation := by
  intro s ended noReset
  obtain ⟨quiet, port, idle⟩ := (runEnded_iff s).1 ended
  obtain ⟨noOffer, quietAfter⟩ := nextTurn_of_no_offer quiet
  obtain ⟨s', taken, effect⟩ := takeTurn_answers (nextTurn s) (dropTurn s)
  obtain ⟨flag, level, rfl⟩ := effect.of_ended idle port noReset noOffer
  exact ⟨_, taken, (runEnded_iff _).2 ⟨quietAfter, port, idle⟩, rfl⟩

end Sys2Proof.Machine
